-- ==== Sys2Proof/Word.lean ====
section
/-! DEFINITION. The word and byte types (00_scope.md R10, R11). -/

namespace Sys2Proof

/-- A register or a command word: 32 bits, bit 0 the least significant (R10, R11). -/
abbrev Word := BitVec 32

/-- One location of the buffer memory (20_memory.md R60). -/
abbrev Byte := BitVec 8

end Sys2Proof
end

