-- ==== Sys2Proof/Config.lean ====
section
/-! DEFINITION. What an implementation fixes (00_scope.md R9), and the free values of the spec. -/

namespace Sys2Proof

/-- The parameters of R9, in a form in which every value is legal: `MEM_BYTES` is 1 to 2^31, so it is held as the
address of the last byte in 31 bits; `REG_BASE` is 256-byte aligned, so it is held as a multiple of 256. -/
structure Config where
  /-- address of the last byte of the buffer memory, `MEM_BYTES - 1` -/
  memLast : BitVec 31
  /-- `REG_BASE / 256` -/
  regPage : Nat
  /-- `BUF_BASE` -/
  bufBase : Nat
  /-- `IRQ_LINE` -/
  irqLine : Nat
  deriving DecidableEq, Repr, Inhabited

/-- `MEM_BYTES`, the size of the buffer memory in bytes: 1 to 2^31 (R9). -/
def Config.memBytes (c : Config) : Nat := c.memLast.toNat + 1

/-- `REG_BASE`, the host bus address of register offset 0 (R9). -/
def Config.regBase (c : Config) : Nat := 256 * c.regPage

/-- The parameters of the platform at hand: OPEN in the spec (R9, 92_eei_decisions.md D5), so a constant of which
nothing can be proved. DESIGN CHOICE, safe: log 1. -/
opaque Config.platform : Config

/-- The byte that power-up number `n` leaves at an address: an unconstrained draw (70_reset_and_hazards.md R242).
A free value, safe: log 2. -/
opaque Config.powerUpByte : Nat → Nat → Byte

/-- The byte that the `n`-th abandoned command leaves at an address of its output range: an unconstrained draw
(70_reset_and_hazards.md R241). A free value, safe: log 6. -/
opaque Config.abandonedByte : Nat → Nat → Byte

end Sys2Proof
end

