-- ==== Sys2Proof/Machine/State.lean ====
section
/-! DEFINITION. The state of one engine instance (10_state.md R20, R21, R47), as plain data; the ways a step can stop;
the state after reset (R51). -/

namespace Sys2Proof.Machine

/-- Why the model stops with a fault: cases in which the spec gives no outcome. -/
inductive Fault where
  /-- Raised by a host access, while a command is in flight, that writes its source range or reads or writes its output
  range: the spec defines no outcome and says that a model treats the breach as a fault of the program
  (70_reset_and_hazards.md R246). Safe: the hardware goes on with one of several outcomes. -/
  | bufferHazard
  /-- Raised by a host access while the reset input is asserted: the spec says only that accesses are accepted when
  reset is released (70_reset_and_hazards.md R240). Safe: log 5. -/
  | accessInReset
  /-- Raised by the meaning of a command when no command is in flight, so that there is no snapshot to take operands
  from (10_state.md R45, R47). No step asks for that. Safe: log 10. -/
  | noCommand
  deriving DecidableEq, Repr

/-- Why the model refuses an instruction. -/
inductive Refusal where
  /-- Raised by an arm of `exec` whose instruction has no meaning yet. Safe. No arm is in this case. -/
  | notModelled (mnemonic : String)
  deriving DecidableEq, Repr

/-- The error codes of 60_exceptions.md R200. -/
inductive ErrorCode where
  | invalidWidth
  | invalidCharacter
  | illegalCommand
  | invalidThreshold
  | srcRange
  | dstRange
  | overlap
  deriving DecidableEq, Repr

/-- The stored fields of `STATUS` (10_state.md R24). `BUSY` is the engine's phase (R47) and is not stored twice. -/
structure Status where
  done : Bool
  err : Bool
  ovr : Bool
  errcode : BitVec 4
  deriving DecidableEq, Repr

/-- The operand registers (10_state.md R33 to R37). -/
structure Operands where
  srcAddr : Word
  srcLen : Word
  dstAddr : Word
  width : Word
  height : Word
  deriving DecidableEq, Repr

/-- The result registers of the image commands (10_state.md R38 to R42). -/
structure ImageResults where
  boxX : Word
  boxY : Word
  maskW : Word
  maskH : Word
  outW : Word
  outH : Word
  outStride : Word
  outLen : Word
  deriving DecidableEq, Repr

/-- The result registers of `CRC` (10_state.md R43): `CRC_VAL` uses 16 bits. -/
structure CrcResults where
  val : BitVec 16
  hex : Word
  deriving DecidableEq, Repr

/-- The copy of the registers taken at acceptance (10_state.md R44, R45). -/
structure Snapshot where
  cmd : Word
  ops : Operands
  deriving DecidableEq, Repr

/-- The engine's internal state (10_state.md R20, R47, R48): idle, or busy with the snapshot and the 16-bit CRC
accumulator. Neither survives completion (logs 11 and 12). -/
inductive Engine where
  | idle
  | busy (snap : Snapshot) (crcAcc : BitVec 16)
  deriving DecidableEq, Repr

/-- The named registers of 10_state.md R21. -/
inductive Reg where
  | id | status | cmd | intEn | srcAddr | srcLen | dstAddr | width | height
  | boxX | boxY | maskW | maskH | outW | outH | outStride | outLen | crcVal | crcHex
  deriving DecidableEq, Repr

/-- The size of a host access: 1, 2 or 4 bytes (20_memory.md R62). -/
inductive Size where
  | b1 | b2 | b4
  deriving DecidableEq, Repr

/-- One move of the world outside the engine, or leave for the engine to move (logs 3 and 5). -/
inductive Input where
  /-- a host read at a host bus address -/
  | read (addr : Nat) (size : Size)
  /-- a host write at a host bus address; the low bytes of `value` are written -/
  | write (addr : Nat) (size : Size) (value : Word)
  /-- the host re-reads a register until its bits under `mask` equal `value` (30_encoding.md R94) -/
  | poll (reg : Reg) (mask value : Word)
  /-- the engine moves now: it completes the command in flight, if there is one -/
  | engine
  /-- the reset input is asserted (70_reset_and_hazards.md R240, R241) -/
  | resetAssert
  /-- the reset input is released (R240) -/
  | resetRelease
  deriving DecidableEq, Repr

/-- The last answer on the host's bus port (10_state.md R22, 20_memory.md R62; log 9). -/
inductive Response where
  | none
  | ack
  | data (value : Word)
  | busError
  deriving DecidableEq, Repr

/-- The buffer memory (20_memory.md R60): the bytes somebody has written, addresses strictly rising. An unlisted
address has not been written since power-up and holds no value the spec gives (70_reset_and_hazards.md R242; log 2). -/
abbrev Memory := List Host.Cell

/-- The machine. -/
structure State where
  /-- the platform's parameters (00_scope.md R9); no step changes them (log 1) -/
  cfg : Config
  /-- `STATUS` (10_state.md R24) -/
  status : Status
  /-- `CMD`, the last accepted command word (R31) -/
  cmd : Word
  /-- `INT_EN`: bit 0 `DONE_IE`, bit 1 `ERR_IE`, bit 2 `OVR_IE` (R32) -/
  intEn : BitVec 3
  /-- `SRC_ADDR` to `HEIGHT` (R33 to R37) -/
  ops : Operands
  /-- `BOX_X` to `OUT_LEN` (R38 to R42) -/
  image : ImageResults
  /-- `CRC_VAL`, `CRC_HEX` (R43) -/
  crc : CrcResults
  /-- phase, snapshot and CRC accumulator (R47, R48) -/
  engine : Engine
  /-- buffer memory (20_memory.md R60) -/
  mem : Memory
  /-- level of the reset input (70_reset_and_hazards.md R240) -/
  inReset : Bool
  /-- what the outside world does next, oldest first (log 3) -/
  inputs : List Input
  /-- the last answer on the host's bus port (log 9) -/
  response : Response
  /-- which power-up's unspecified memory contents are meant (log 2) -/
  powerUp : Nat
  /-- how many commands reset has abandoned: argument of the free values of R241 (log 6) -/
  draws : Nat
  deriving DecidableEq, Repr

/-! ## Updates: one per field that some step writes -/

namespace State

def setStatus (s : State) (v : Status) : State := { s with status := v }
def setCmd (s : State) (v : Word) : State := { s with cmd := v }
def setIntEn (s : State) (v : BitVec 3) : State := { s with intEn := v }
def setOps (s : State) (v : Operands) : State := { s with ops := v }
def setImage (s : State) (v : ImageResults) : State := { s with image := v }
def setCrc (s : State) (v : CrcResults) : State := { s with crc := v }
def setEngine (s : State) (v : Engine) : State := { s with engine := v }
def setMem (s : State) (v : Memory) : State := { s with mem := v }
def setInReset (s : State) (v : Bool) : State := { s with inReset := v }
def setInputs (s : State) (v : List Input) : State := { s with inputs := v }
def setResponse (s : State) (v : Response) : State := { s with response := v }
def setDraws (s : State) (v : Nat) : State := { s with draws := v }

end State

/-! ## Reset values (10_state.md R21, R51) -/

def Status.reset : Status := { done := false, err := false, ovr := false, errcode := 0 }
def Operands.reset : Operands := { srcAddr := 0, srcLen := 0, dstAddr := 0, width := 0, height := 0 }
def ImageResults.reset : ImageResults :=
  { boxX := 0, boxY := 0, maskW := 0, maskH := 0, outW := 0, outH := 0, outStride := 0, outLen := 0 }
/-- `CRC_HEX` resets to the four digits of 0 (R43). -/
def CrcResults.reset : CrcResults := { val := 0, hex := 0x30303030 }

/-- The machine right after power-up and reset, the reset input just released: every register at its reset value, the
engine idle, nothing written to memory (10_state.md R51; 70_reset_and_hazards.md R240, R242). `cfg`, `inReset`,
`inputs`, `response`, `powerUp` and `draws` are the model's own: logs 1 and 15. -/
def State.reset : State where
  cfg := Config.platform
  status := .reset
  cmd := 0
  intEn := 0
  ops := .reset
  image := .reset
  crc := .reset
  engine := .idle
  mem := []
  inReset := false
  inputs := []
  response := .none
  powerUp := 0
  draws := 0

end Sys2Proof.Machine
end

