-- ==== Sys2Proof/Machine/Ops.lean ====
section
/-! DEFINITION. The named operations: buffer memory and ranges (20_memory.md), acceptance (10_state.md R44, R46), error
completion, which is the block's exception entry (60_exceptions.md R210), and success completion (R214). -/

namespace Sys2Proof.Machine

/-! ## Buffer memory -/

/-- The byte at an address, if somebody has written it. -/
def Memory.read : Memory → Nat → Option Byte
  | [], _ => none
  | (k, v) :: m, a => if a = k then some v else Memory.read m a

/-- Store one byte, keeping addresses strictly rising. -/
def Memory.write : Memory → Nat → Byte → Memory
  | [], a, b => [(a, b)]
  | (k, v) :: m, a, b =>
    if a < k then (a, b) :: (k, v) :: m
    else if a = k then (a, b) :: m
    else (k, v) :: Memory.write m a b

/-- Store consecutive bytes from `a` up. -/
def Memory.writeBytes : Memory → Nat → List Byte → Memory
  | m, _, [] => m
  | m, a, b :: bs => Memory.writeBytes (m.write a b) (a + 1) bs

/-- The canonical form: addresses strictly rising. (An unlisted address reads as no value, which no entry equals.) -/
abbrev Memory.wf (m : Memory) : Prop := m.Pairwise (fun c d => c.1 < d.1)

/-- The byte an agent reads at `a`: the last one written, or else the one power-up left there, an unconstrained draw
(20_memory.md R73; 70_reset_and_hazards.md R242; log 2). -/
def State.byteAt (s : State) (a : Nat) : Byte := (s.mem.read a).getD (Config.powerUpByte s.powerUp a)

/-- `MemRead(a, n)`: `n` bytes assembled little-endian (00_scope.md R13; 20_memory.md R63). -/
def State.memRead (s : State) (a : Nat) : Nat → Nat
  | 0 => 0
  | n + 1 => (s.byteAt a).toNat + 256 * s.memRead (a + 1) n

/-- The `n` low bytes of `v`, least significant first (20_memory.md R63). -/
def leBytes : Nat → Nat → List Byte
  | 0, _ => []
  | n + 1, v => BitVec.ofNat 8 v :: leBytes n (v / 256)

/-- Store consecutive bytes from `a` up. -/
def State.storeBytes (s : State) (a : Nat) (bs : List Byte) : State := s.setMem (s.mem.writeBytes a bs)

/-- `MemWrite(a, n, v)` (00_scope.md R13). -/
def State.memWrite (s : State) (a n v : Nat) : State := s.storeBytes a (leBytes n v)

/-! ## Ranges (20_memory.md R68, R69): exact arithmetic, no wrap-around -/

/-- The addresses `base .. base + len - 1`. -/
structure Range where
  base : Nat
  len : Nat
  deriving DecidableEq, Repr

/-- Valid: empty, or ending at or below `MEM_BYTES` (R68). -/
def Range.valid (r : Range) (cfg : Config) : Bool := decide (r.len = 0) || decide (r.base + r.len ≤ cfg.memBytes)

/-- Two ranges overlap (R69). -/
def Range.overlaps (r q : Range) : Bool :=
  decide (0 < r.len) && decide (0 < q.len) && decide (r.base < q.base + q.len) && decide (q.base < r.base + r.len)

/-- `a` is one of the range's addresses (R68). -/
def Range.contains (r : Range) (a : Nat) : Bool := decide (r.base ≤ a) && decide (a < r.base + r.len)

/-! ## Accepting a command -/

/-- A host write of `w` to `CMD` while idle: one indivisible step (10_state.md R44). The CRC accumulator of the new
command starts at 0 (R48). -/
def acceptCommand (w : Word) (s : State) : State :=
  ((s.setCmd w).setStatus { s.status with done := false, err := false }).setEngine
    (.busy { cmd := w, ops := s.ops } 0)

/-- A host write to `CMD` while busy: dropped, and `OVR` set (10_state.md R46). -/
def dropCommand (s : State) : State := s.setStatus { s.status with ovr := true }

/-- A host write of `w` to `CMD` (10_state.md R31). -/
def writeCommand (w : Word) (s : State) : State :=
  match s.engine with
  | .idle => acceptCommand w s
  | .busy _ _ => dropCommand s

/-! ## Completion -/

/-- The code of an error (60_exceptions.md R200). -/
def ErrorCode.code : ErrorCode → BitVec 4
  | .invalidWidth => 1
  | .invalidCharacter => 2
  | .illegalCommand => 3
  | .invalidThreshold => 4
  | .srcRange => 5
  | .dstRange => 6
  | .overlap => 7

/-- `raise Error(code)`: error completion, the block's exception entry (60_exceptions.md R210, R211). `CMD` keeps the
failed word, the snapshot is discarded, the engine becomes idle; no byte and no result register is written. -/
def raiseError (c : ErrorCode) (s : State) : State :=
  (s.setStatus { s.status with errcode := c.code, err := true }).setEngine .idle

/-- `complete()`: success completion, a command's last action (60_exceptions.md R214). -/
def complete (s : State) : State :=
  (s.setStatus { s.status with errcode := 0, done := true }).setEngine .idle

/-- Run the completion step of the command in flight on its snapshot (10_state.md R45, R47). With no command in flight
there is nothing to complete: log 10. -/
def withCommand (s : State) (f : Snapshot → State) : Host.Outcome State Fault Refusal :=
  match s.engine with
  | .busy snap _ => .next (f snap)
  | .idle => .fault .noCommand

/-! ## The output of an image command -/

/-- What an image command that passed its source checks is about to write: the crop origin and mask size, the output
size and row stride, and the output bytes, all exact numbers (10_state.md R38 to R42). -/
structure ImagePlan where
  boxX : Nat
  boxY : Nat
  maskW : Nat
  maskH : Nat
  outW : Nat
  outH : Nat
  stride : Nat
  bytes : List Byte
  deriving DecidableEq, Repr

/-- `OUT_LEN = OUT_STRIDE × OUT_H` (10_state.md R42). -/
def ImagePlan.len (p : ImagePlan) : Nat := p.stride * p.outH

/-- The result registers after success (10_state.md R38 to R42). -/
def ImagePlan.results (p : ImagePlan) : ImageResults where
  boxX := BitVec.ofNat 32 p.boxX
  boxY := BitVec.ofNat 32 p.boxY
  maskW := BitVec.ofNat 32 p.maskW
  maskH := BitVec.ofNat 32 p.maskH
  outW := BitVec.ofNat 32 p.outW
  outH := BitVec.ofNat 32 p.outH
  outStride := BitVec.ofNat 32 p.stride
  outLen := BitVec.ofNat 32 p.len

/-- The end that `MONO`, `ROT` and `MONOPACK` share (40_monochromizer.md R110, 41_rotator.md R133, 43_pipeline.md R180):
the errors found so far, then the output range, then its overlap with the source range `src`, and only then the
writes. -/
def finishImage (snap : Snapshot) (src : Range) (plan : Except ErrorCode ImagePlan) (s : State) : State :=
  match plan with
  | .error c => raiseError c s
  | .ok p =>
    let dst : Range := { base := snap.ops.dstAddr.toNat, len := p.len }
    if dst.valid s.cfg then
      if src.overlaps dst then raiseError .overlap s
      else complete ((s.storeBytes dst.base p.bytes).setImage p.results)
    else raiseError .dstRange s

end Sys2Proof.Machine
end

