-- ==== Sys2Proof/Machine/Flags.lean ====
section
/-! DEFINITION. The flags: the `STATUS` word and its write-1-to-clear bits (10_state.md R24 to R30), the interrupt
enables (R32) and the interrupt output (60_exceptions.md R215). -/

namespace Sys2Proof.Machine

/-- `STATUS.BUSY`: 1 exactly while a command is in flight (10_state.md R25, R47). -/
def State.busy (s : State) : Bool :=
  match s.engine with
  | .idle => false
  | .busy _ _ => true

/-- The `STATUS` register as the host reads it (10_state.md R24): reserved bits are 0. -/
def State.statusWord (s : State) : Word :=
  (0 : BitVec 20) ++ s.status.errcode ++ (0 : BitVec 4) ++ BitVec.ofBool s.status.ovr ++ BitVec.ofBool s.status.err
    ++ BitVec.ofBool s.status.done ++ BitVec.ofBool s.busy

/-- A host write of `v` to `STATUS`: write 1 to clear (10_state.md R29). -/
def writeStatus (v : Word) (s : State) : State :=
  s.setStatus { s.status with
    done := s.status.done && !v.getLsbD 1
    err := s.status.err && !v.getLsbD 2
    ovr := s.status.ovr && !v.getLsbD 3 }

/-- `INT_EN` as the host reads it (10_state.md R32). -/
def State.intEnWord (s : State) : Word := s.intEn.setWidth 32

/-- A host write of `v` to `INT_EN`: bits 31:3 are ignored (10_state.md R32). -/
def writeIntEn (v : Word) (s : State) : State := s.setIntEn (v.setWidth 3)

/-- The interrupt output, a function of six register bits (60_exceptions.md R215). -/
def State.irq (s : State) : Bool :=
  (s.status.done && s.intEn.getLsbD 0) || (s.status.err && s.intEn.getLsbD 1) || (s.status.ovr && s.intEn.getLsbD 2)

/-- Whether the block drives platform interrupt input `line` high: it drives `IRQ_LINE` (60_exceptions.md R215). -/
def State.drivesLine (s : State) (line : Nat) : Bool := decide (line = s.cfg.irqLine) && s.irq

end Sys2Proof.Machine
end

