-- ==== Sys2Proof/Syntax.lean ====
section
/-! DEFINITION. The commands of the engine (00_scope.md R3, 30_encoding.md R81 to R84): one constructor per row of the
opcode table. -/

namespace Sys2Proof

/-- Rotation mode, the `ROT` field (30_encoding.md R82). -/
inductive RotMode where
  | none
  | cw
  | ccw
  | half
  deriving DecidableEq, Repr

/-- Width of a `CRC` code unit, the `CUW` field (30_encoding.md R84): one byte, or 16 bits little-endian. -/
inductive CodeUnit where
  | b8
  | u16
  deriving DecidableEq, Repr

/-- The seven commands. `skip` is the `SKIP` field (R83: true skips cropping), `black` the value of the `BLACK` field
(R85). The data operands are never in the word (R91). -/
inductive Instr where
  /-- `MONO`: monochromize to a byte mask (40_monochromizer.md R110) -/
  | mono (skip : Bool) (black : Nat)
  /-- `ROT.NONE`: pack without rotation (41_rotator.md R134) -/
  | rotNone
  /-- `ROT.CW`: rotate +90° and pack (41_rotator.md R136) -/
  | rotCw
  /-- `ROT.CCW`: rotate −90° and pack (41_rotator.md R137) -/
  | rotCcw
  /-- `ROT.180`: rotate by a half turn and pack (41_rotator.md R135) -/
  | rot180
  /-- `MONOPACK`: monochromize, then rotate and pack (43_pipeline.md R180) -/
  | monopack (rot : RotMode) (skip : Bool) (black : Nat)
  /-- `CRC`: checksum of a string in buffer memory (42_checksum.md R165) -/
  | crc (unit : CodeUnit)
  deriving DecidableEq, Repr

end Sys2Proof
end

