-- ==== Sys2Proof/WellFormed.lean ====
section
/-! DEFINITION. Which instruction terms the command word can carry (log 13). -/

namespace Sys2Proof

/-- A value of the 7-bit `BLACK` field (30_encoding.md R80). 100 to 127 are encodable, and raise `INVALID_THRESHOLD`
when the command runs (R85). -/
def blackFits (black : Nat) : Bool := decide (black < 128)

/-- Every operand fits its field of the command word (30_encoding.md R80). -/
def Instr.wellFormed : Instr → Bool
  | .mono _ black => blackFits black
  | .rotNone => true
  | .rotCw => true
  | .rotCcw => true
  | .rot180 => true
  | .monopack _ _ black => blackFits black
  | .crc _ => true

end Sys2Proof
end

