-- ==== Sys2Proof/Decode.lean ====
section
/-! DEFINITION. The command word: its fields, the decoder, the encoder and the opcode map (30_encoding.md R80 to R91). -/

namespace Sys2Proof

/-- Why a command word is illegal (60_exceptions.md R203). The spec has one verdict, ILLEGAL, and the machine treats the
three alike; the three names are the model's own: log 19. -/
inductive Illegal where
  /-- one of bits 31:15 is set (30_encoding.md R86) -/
  | reservedBits
  /-- `OP` is 0x0 or 0x5 to 0xF (R81) -/
  | reservedOp
  /-- a field that the `OP` does not use is not 0 (R87) -/
  | unusedField
  deriving DecidableEq, Repr

/-! ## Fields (R80) -/

/-- bits 3:0 -/
def opField (w : Word) : BitVec 4 := w.extractLsb' 0 4
/-- bits 5:4 -/
def rotField (w : Word) : BitVec 2 := w.extractLsb' 4 2
/-- bit 6 -/
def skipField (w : Word) : BitVec 1 := w.extractLsb' 6 1
/-- bit 7 -/
def cuwField (w : Word) : BitVec 1 := w.extractLsb' 7 1
/-- bits 14:8 -/
def blackField (w : Word) : BitVec 7 := w.extractLsb' 8 7
/-- bits 31:15 -/
def reservedField (w : Word) : BitVec 17 := w.extractLsb' 15 17

/-- The mode a `ROT` field selects (R82). -/
def RotMode.ofField (r : BitVec 2) : RotMode :=
  if r = 0 then .none else if r = 1 then .cw else if r = 2 then .ccw else .half

/-- The `ROT` field of a mode (R82). -/
def RotMode.field : RotMode → BitVec 2
  | .none => 0b00#2
  | .cw => 0b01#2
  | .ccw => 0b10#2
  | .half => 0b11#2

/-- The code-unit width a `CUW` field selects (R84). -/
def CodeUnit.ofField (u : BitVec 1) : CodeUnit := if u = 0 then .b8 else .u16

/-- The `CUW` field of a code-unit width (R84). -/
def CodeUnit.field : CodeUnit → BitVec 1
  | .b8 => 0#1
  | .u16 => 1#1

/-- The `ROT` command of a mode (R88, case 0x2). -/
def Instr.ofRot : RotMode → Instr
  | .none => .rotNone
  | .cw => .rotCw
  | .ccw => .rotCcw
  | .half => .rot180

/-! ## Decoding (R88) -/

/-- `instr` when every field its `OP` does not use is 0, else illegal (R87). -/
def checkUnused (unusedZero : Bool) (instr : Instr) : Except Illegal Instr :=
  if unusedZero then .ok instr else .error .unusedField

/-- The verdict on a word whose reserved bits are 0: the case split of R88. -/
def decodeFields (op : BitVec 4) (rot : BitVec 2) (skip cuw : BitVec 1) (black : BitVec 7) : Except Illegal Instr :=
  if op = 0x1 then checkUnused (decide (rot = 0) && decide (cuw = 0)) (.mono (decide (skip = 1)) black.toNat)
  else if op = 0x2 then
    checkUnused (decide (skip = 0) && decide (cuw = 0) && decide (black = 0)) (.ofRot (.ofField rot))
  else if op = 0x3 then
    checkUnused (decide (cuw = 0)) (.monopack (.ofField rot) (decide (skip = 1)) black.toNat)
  else if op = 0x4 then
    checkUnused (decide (rot = 0) && decide (skip = 0) && decide (black = 0)) (.crc (.ofField cuw))
  else .error .reservedOp

/-- Decoding of a command word: total, a verdict for every 32-bit word (R88). -/
def decode (w : Word) : Except Illegal Instr :=
  if reservedField w = 0 then decodeFields (opField w) (rotField w) (skipField w) (cuwField w) (blackField w)
  else .error .reservedBits

/-- The 32-bit command word whose bits are those of `w`: there is one format and one length (R80, R90). Bits at or
above `nbits` are 0. -/
def tableWord (nbits w : Nat) : Word := BitVec.ofNat 32 (w % 2 ^ nbits)

/-- What the decoder reads from the word of an opcode-table row. -/
def decodeTableWord (nbits w : Nat) : Option Instr := (decode (tableWord nbits w)).toOption

/-! ## Encoding (R80, R89, R92) -/

/-- The command word with these fields (R80). -/
def commandWord (op : BitVec 4) (rot : BitVec 2) (skip cuw : BitVec 1) (black : BitVec 7) : Word :=
  (0 : BitVec 17) ++ black ++ cuw ++ skip ++ rot ++ op

/-- The word of a command. `black` must fit its field (`Instr.wellFormed`). -/
def encode : Instr → Word
  | .mono skip black => commandWord 0x1 0 (.ofBool skip) 0 (.ofNat 7 black)
  | .rotNone => commandWord 0x2 (RotMode.field .none) 0 0 0
  | .rotCw => commandWord 0x2 (RotMode.field .cw) 0 0 0
  | .rotCcw => commandWord 0x2 (RotMode.field .ccw) 0 0 0
  | .rot180 => commandWord 0x2 (RotMode.field .half) 0 0 0
  | .monopack rot skip black => commandWord 0x3 rot.field (.ofBool skip) 0 (.ofNat 7 black)
  | .crc unit => commandWord 0x4 0 0 unit.field 0

/-! ## The opcode map (R89) -/

/-- A row of the opcode map: a word `w` is the row's command iff `w & mask = match` (R89). -/
structure OpcodeRow where
  mnemonic : String
  pattern : Word
  mask : Word
  deriving DecidableEq, Repr

/-- `w & mask = match` -/
def OpcodeRow.matchesWord (r : OpcodeRow) (w : Word) : Bool := decide (w &&& r.mask = r.pattern)

/-- The row of a command (R89). -/
def Instr.row : Instr → OpcodeRow
  | .mono _ _ => ⟨"MONO", 0x00000001, 0xFFFF80BF⟩
  | .rotNone => ⟨"ROT.NONE", 0x00000002, 0xFFFFFFFF⟩
  | .rotCw => ⟨"ROT.CW", 0x00000012, 0xFFFFFFFF⟩
  | .rotCcw => ⟨"ROT.CCW", 0x00000022, 0xFFFFFFFF⟩
  | .rot180 => ⟨"ROT.180", 0x00000032, 0xFFFFFFFF⟩
  | .monopack _ _ _ => ⟨"MONOPACK", 0x00000003, 0xFFFF808F⟩
  | .crc _ => ⟨"CRC", 0x00000004, 0xFFFFFF7F⟩

/-- The opcode map, in its own order (R89). -/
def opcodeMap : List OpcodeRow :=
  [Instr.row (.mono false 0), Instr.row .rotNone, Instr.row .rotCw, Instr.row .rotCcw, Instr.row .rot180,
   Instr.row (.monopack .none false 0), Instr.row (.crc .b8)]

end Sys2Proof
end

