-- ==== Sys2Proof/Machine/Operands.lean ====
section
/-! DEFINITION. The operand forms: the threshold, the source ranges, and the pixels, mask bytes and code units a command
reads (20_memory.md R64, R65, R67; 30_encoding.md R85, R91). Every operand comes from the snapshot (10_state.md R45). -/

namespace Sys2Proof.Machine

/-- The effective threshold of a `BLACK` field (30_encoding.md R85). -/
def threshold (black : Nat) : Except ErrorCode Nat :=
  if black = 0 then .ok 50 else if black ≤ 99 then .ok black else .error .invalidThreshold

/-- The pixel buffer of `MONO` and `MONOPACK`: `SRC_LEN` bytes (60_exceptions.md R205). -/
def Snapshot.pixelRange (n : Snapshot) : Range := { base := n.ops.srcAddr.toNat, len := n.ops.srcLen.toNat }

/-- The input mask of a `ROT` command: `WIDTH × HEIGHT` bytes (60_exceptions.md R205). -/
def Snapshot.maskRange (n : Snapshot) : Range :=
  { base := n.ops.srcAddr.toNat, len := n.ops.width.toNat * n.ops.height.toNat }

/-- Bytes per code unit (42_checksum.md R165, R166). -/
def unitBytes : CodeUnit → Nat
  | .b8 => 1
  | .u16 => 2

/-- The string of a `CRC` command: `SRC_LEN` code units (60_exceptions.md R205). -/
def Snapshot.stringRange (n : Snapshot) (u : CodeUnit) : Range :=
  { base := n.ops.srcAddr.toNat, len := n.ops.srcLen.toNat * unitBytes u }

/-- The height of a source image, exact; `INVALID_WIDTH` for width 0 or a length that is not a whole number of rows
(40_monochromizer.md R104). -/
def imageHeight (n : Snapshot) : Except ErrorCode Nat :=
  let W := n.ops.width.toNat
  let L := n.ops.srcLen.toNat
  if decide (W = 0) || decide (L % (4 * W) ≠ 0) then .error .invalidWidth else .ok (L / (4 * W))

/-- The four channels of a pixel. -/
structure Pixel where
  r : Byte
  g : Byte
  b : Byte
  a : Byte
  deriving DecidableEq, Repr

/-- Pixel `(x, y)` of the source image: channels R, G, B, A at consecutive bytes, rows in order (20_memory.md R64). -/
def State.pixelAt (s : State) (n : Snapshot) (x y : Nat) : Pixel :=
  let p := n.ops.srcAddr.toNat + 4 * (y * n.ops.width.toNat + x)
  { r := s.byteAt p, g := s.byteAt (p + 1), b := s.byteAt (p + 2), a := s.byteAt (p + 3) }

/-- Pixel `(x, y)` of the input mask of a `ROT` command: any nonzero byte is dark (20_memory.md R65; 41_rotator.md
R132). -/
def State.maskPixel (s : State) (n : Snapshot) (x y : Nat) : Bool :=
  decide (s.byteAt (n.ops.srcAddr.toNat + y * n.ops.width.toNat + x) ≠ 0)

/-- Code unit `i` of the string: one byte, or two bytes little-endian (42_checksum.md R165, R166). -/
def State.codeUnit (s : State) (n : Snapshot) (u : CodeUnit) (i : Nat) : Nat :=
  s.memRead (n.ops.srcAddr.toNat + unitBytes u * i) (unitBytes u)

/-- The code units of the string, in order. -/
def State.codeUnits (s : State) (n : Snapshot) (u : CodeUnit) : List Nat :=
  (List.range n.ops.srcLen.toNat).map (s.codeUnit n u)

end Sys2Proof.Machine
end

