-- ==== Sys2Proof/Machine/Checksum.lean ====
section
/-! DEFINITION. The checksum: the CRC table, the CRC function, its hex rendering and `CRC` (42_checksum.md). -/

namespace Sys2Proof.Machine

/-! ## The table (R161): constant read-only memory (10_state.md R49) -/

/-- Entries 0x00 to 0x3F (R161). -/
def crcTable0 : List (BitVec 16) :=
  [0x0000, 0x1021, 0x2042, 0x3063, 0x4084, 0x50A5, 0x60C6, 0x70E7]
  ++ [0x8108, 0x9129, 0xA14A, 0xB16B, 0xC18C, 0xD1AD, 0xE1CE, 0xF1EF]
  ++ [0x1231, 0x0210, 0x3273, 0x2252, 0x52B5, 0x4294, 0x72F7, 0x62D6]
  ++ [0x9339, 0x8318, 0xB37B, 0xA35A, 0xD3BD, 0xC39C, 0xF3FF, 0xE3DE]
  ++ [0x2462, 0x3443, 0x0420, 0x1401, 0x64E6, 0x74C7, 0x44A4, 0x5485]
  ++ [0xA56A, 0xB54B, 0x8528, 0x9509, 0xE5EE, 0xF5CF, 0xC5AC, 0xD58D]
  ++ [0x3653, 0x2672, 0x1611, 0x0630, 0x76D7, 0x66F6, 0x5695, 0x46B4]
  ++ [0xB75B, 0xA77A, 0x9719, 0x8738, 0xF7DF, 0xE7FE, 0xD79D, 0xC7BC]

/-- Entries 0x40 to 0x7F (R161). -/
def crcTable1 : List (BitVec 16) :=
  [0x48C4, 0x58E5, 0x6886, 0x78A7, 0x0840, 0x1861, 0x2802, 0x3823]
  ++ [0xC9CC, 0xD9ED, 0xE98E, 0xF9AF, 0x8948, 0x9969, 0xA90A, 0xB92B]
  ++ [0x5AF5, 0x4AD4, 0x7AB7, 0x6A96, 0x1A71, 0x0A50, 0x3A33, 0x2A12]
  ++ [0xDBFD, 0xCBDC, 0xFBBF, 0xEB9E, 0x9B79, 0x8B58, 0xBB3B, 0xAB1A]
  ++ [0x6CA6, 0x7C87, 0x4CE4, 0x5CC5, 0x2C22, 0x3C03, 0x0C60, 0x1C41]
  ++ [0xEDAE, 0xFD8F, 0xCDEC, 0xDDCD, 0xAD2A, 0xBD0B, 0x8D68, 0x9D49]
  ++ [0x7E97, 0x6EB6, 0x5ED5, 0x4EF4, 0x3E13, 0x2E32, 0x1E51, 0x0E70]
  ++ [0xFF9F, 0xEFBE, 0xDFDD, 0xCFFC, 0xBF1B, 0xAF3A, 0x9F59, 0x8F78]

/-- Entries 0x80 to 0xBF (R161). -/
def crcTable2 : List (BitVec 16) :=
  [0x9188, 0x81A9, 0xB1CA, 0xA1EB, 0xD10C, 0xC12D, 0xF14E, 0xE16F]
  ++ [0x1080, 0x00A1, 0x30C2, 0x20E3, 0x5004, 0x4025, 0x7046, 0x6067]
  ++ [0x83B9, 0x9398, 0xA3FB, 0xB3DA, 0xC33D, 0xD31C, 0xE37F, 0xF35E]
  ++ [0x02B1, 0x1290, 0x22F3, 0x32D2, 0x4235, 0x5214, 0x6277, 0x7256]
  ++ [0xB5EA, 0xA5CB, 0x95A8, 0x8589, 0xF56E, 0xE54F, 0xD52C, 0xC50D]
  ++ [0x34E2, 0x24C3, 0x14A0, 0x0481, 0x7466, 0x6447, 0x5424, 0x4405]
  ++ [0xA7DB, 0xB7FA, 0x8799, 0x97B8, 0xE75F, 0xF77E, 0xC71D, 0xD73C]
  ++ [0x26D3, 0x36F2, 0x0691, 0x16B0, 0x6657, 0x7676, 0x4615, 0x5634]

/-- Entries 0xC0 to 0xFF (R161). -/
def crcTable3 : List (BitVec 16) :=
  [0xD94C, 0xC96D, 0xF90E, 0xE92F, 0x99C8, 0x89E9, 0xB98A, 0xA9AB]
  ++ [0x5844, 0x4865, 0x7806, 0x6827, 0x18C0, 0x08E1, 0x3882, 0x28A3]
  ++ [0xCB7D, 0xDB5C, 0xEB3F, 0xFB1E, 0x8BF9, 0x9BD8, 0xABBB, 0xBB9A]
  ++ [0x4A75, 0x5A54, 0x6A37, 0x7A16, 0x0AF1, 0x1AD0, 0x2AB3, 0x3A92]
  ++ [0xFD2E, 0xED0F, 0xDD6C, 0xCD4D, 0xBDAA, 0xAD8B, 0x9DE8, 0x8DC9]
  ++ [0x7C26, 0x6C07, 0x5C64, 0x4C45, 0x3CA2, 0x2C83, 0x1CE0, 0x0CC1]
  ++ [0xEF1F, 0xFF3E, 0xCF5D, 0xDF7C, 0xAF9B, 0xBFBA, 0x8FD9, 0x9FF8]
  ++ [0x6E17, 0x7E36, 0x4E55, 0x5E74, 0x2E93, 0x3EB2, 0x0ED1, 0x1EF0]

/-- The table `T` (R161), constant from reset (70_reset_and_hazards.md R243). The polynomial is the spec's decision
from general knowledge (log 16). -/
def crcTable : List (BitVec 16) := crcTable0 ++ crcTable1 ++ crcTable2 ++ crcTable3

/-- `T[i]`. -/
def crcEntry (i : Nat) : BitVec 16 := crcTable.getD i 0

/-! ## The definition behind the table (R161) and the bit-serial form (R162) -/

/-- One step of the division by the polynomial 0x1021: `step` of R161. -/
def crcStep (v : BitVec 16) : BitVec 16 := if v.msb then (v <<< 1) ^^^ 0x1021 else v <<< 1

/-- Eight steps: `step^8` of R161. -/
def crcStep8 (v : BitVec 16) : BitVec 16 := crcStep (crcStep (crcStep (crcStep (crcStep (crcStep (crcStep (crcStep v)))))))

/-- Eight division steps after adding a code unit at the top of the accumulator: one unit of R162. -/
def crcSerialUnit (crc : BitVec 16) (c : Byte) : BitVec 16 :=
  let top : BitVec 16 := c.setWidth 16
  crcStep8 (crc ^^^ (top <<< 8))

/-- The bit-serial form of the CRC (R162), from the seed 0. -/
def crcSerial (units : List Byte) : BitVec 16 := units.foldl crcSerialUnit 0

/-! ## The CRC function (R160) -/

/-- The update with one code unit of at most 255 (R160). -/
def crcUpdate (crc : BitVec 16) (c : Nat) : BitVec 16 :=
  (crc <<< 8) ^^^ crcEntry (((crc >>> 8) ^^^ BitVec.ofNat 16 c) &&& 0xFF).toNat

/-- The accumulator after these code units, `INVALID_CHARACTER` at the first unit above 255 (R160, R165). -/
def crcAccumulate : BitVec 16 → List Nat → Except ErrorCode (BitVec 16)
  | acc, [] => .ok acc
  | acc, c :: cs => if c > 255 then .error .invalidCharacter else crcAccumulate (crcUpdate acc c) cs

/-- `crc16`: seeded at 0, no final inversion (R160, R163). -/
def crc16 (units : List Nat) : Except ErrorCode (BitVec 16) := crcAccumulate 0 units

/-! ## Hex rendering (R164) -/

/-- The ASCII code of a lowercase hex digit (R164). -/
def hexDigit (d : BitVec 4) : Byte := if d ≤ 9 then 0x30 + d.setWidth 8 else 0x57 + d.setWidth 8

/-- Four lowercase digits, the first character in bits 7:0 (R164). -/
def hex4 (crc : BitVec 16) : Word :=
  hexDigit (crc.extractLsb' 0 4) ++ hexDigit (crc.extractLsb' 4 4) ++ hexDigit (crc.extractLsb' 8 4)
    ++ hexDigit (crc.extractLsb' 12 4)

/-! ## CRC (R165) -/

/-- The engine's CRC accumulator (10_state.md R47); an idle engine holds none. -/
def State.accumulator (s : State) : BitVec 16 :=
  match s.engine with
  | .idle => 0
  | .busy _ acc => acc

/-- Write the engine's CRC accumulator (10_state.md R47). -/
def setAccumulator (n : Snapshot) (acc : BitVec 16) (s : State) : State := s.setEngine (.busy n acc)

/-- The result registers take the accumulator and its rendering (R165). -/
def latchCrc (s : State) : State := s.setCrc { val := s.accumulator, hex := hex4 s.accumulator }

/-- Success of `CRC` with the final accumulator `acc` (R165). -/
def finishCrc (n : Snapshot) (acc : BitVec 16) (s : State) : State := complete (latchCrc (setAccumulator n acc s))

/-- `CRC` (R165). -/
def execCrc (u : CodeUnit) (s : State) : Host.Outcome State Fault Refusal :=
  withCommand s fun n =>
    if (n.stringRange u).valid s.cfg then
      match crc16 (s.codeUnits n u) with
      | .error c => raiseError c s
      | .ok acc => finishCrc n acc s
    else raiseError .srcRange s

end Sys2Proof.Machine
end

