-- ==== Sys2Proof/Machine/Monochrome.lean ====
section
/-! DEFINITION. The monochromizer: classification, crop box and `MONO` (40_monochromizer.md). -/

namespace Sys2Proof.Machine

/-! ## Classification (R102): exact integers -/

/-- `Y = 30·R + 59·G + 11·B` (R102). -/
def luma (q : Pixel) : Nat := 30 * q.r.toNat + 59 * q.g.toNat + 11 * q.b.toNat

/-- `lhs`: the blended gray, times 25500 (R102). -/
def blend (q : Pixel) : Nat := luma q * q.a.toNat + 76500 * (255 - q.a.toNat)

/-- `rhs`: the cutoff of threshold `p`, times 25500 (R102). -/
def cutoff (p : Nat) : Nat := 65025 * p

/-- A pixel is dark iff its gray is at or below the cutoff (R101, R102). -/
def dark (p : Nat) (q : Pixel) : Bool := decide (blend q ≤ cutoff p)

/-! ## Crop box (R105 to R107) -/

/-- A box: origin, width and height. -/
structure Box where
  x : Nat
  y : Nat
  w : Nat
  h : Nat
  deriving DecidableEq, Repr

/-- The dark pixels of a `W × H` image, in row-major order: the set `D` of R105. -/
def darkPixels (W H : Nat) (isDark : Nat → Nat → Bool) : List (Nat × Nat) :=
  ((List.range (W * H)).map fun i => (i % W, i / W)).filter fun q => isDark q.1 q.2

/-- The inclusive bounding box of the dark pixels (R105), or `(0, 0, 0, 0)` when there is none (R106). -/
def cropBox (W H : Nat) (isDark : Nat → Nat → Bool) : Box :=
  match darkPixels W H isDark with
  | [] => { x := 0, y := 0, w := 0, h := 0 }
  | d :: ds =>
    let x0 := (ds.map Prod.fst).foldl min d.1
    let x1 := (ds.map Prod.fst).foldl max d.1
    let y0 := (ds.map Prod.snd).foldl min d.2
    let y1 := (ds.map Prod.snd).foldl max d.2
    { x := x0, y := y0, w := x1 - x0 + 1, h := y1 - y0 + 1 }

/-- The box of a command: the full image when cropping is skipped, even with height 0 or no dark pixel (R107). -/
def chooseBox (skip : Bool) (W H : Nat) (isDark : Nat → Nat → Bool) : Box :=
  if skip then { x := 0, y := 0, w := W, h := H } else cropBox W H isDark

/-- Pixel `(i, j)` of the cropped mask is source pixel `(x0 + i, y0 + j)` (R108). -/
def cropped (box : Box) (isDark : Nat → Nat → Bool) (i j : Nat) : Bool := isDark (box.x + i) (box.y + j)

/-! ## The source of `MONO` and `MONOPACK` -/

/-- The classification of the source image of a command at threshold `p` (R105, R108). -/
def State.darkAt (s : State) (n : Snapshot) (p x y : Nat) : Bool := dark p (s.pixelAt n x y)

/-- The checks that `MONO` and `MONOPACK` make before they read a pixel, in order: threshold, width, source range
(R110, 43_pipeline.md R180). The threshold and the image height when all pass. -/
def imageChecks (black : Nat) (n : Snapshot) (s : State) : Except ErrorCode (Nat × Nat) :=
  match threshold black with
  | .error c => .error c
  | .ok p =>
    match imageHeight n with
    | .error c => .error c
    | .ok H => if n.pixelRange.valid s.cfg then .ok (p, H) else .error .srcRange

/-! ## MONO (R110) -/

/-- The mask bytes, row-major with no padding, 0x01 for dark and 0x00 for light (R110, R111; 20_memory.md R65). -/
def maskBytes (w h : Nat) (m : Nat → Nat → Bool) : List Byte :=
  (List.range (w * h)).map fun i => if m (i % w) (i / w) then 0x01 else 0x00

/-- The output of `MONO` with this box (R110, R111). -/
def maskPlan (box : Box) (isDark : Nat → Nat → Bool) : ImagePlan where
  boxX := box.x
  boxY := box.y
  maskW := box.w
  maskH := box.h
  outW := box.w
  outH := box.h
  stride := box.w
  bytes := maskBytes box.w box.h (cropped box isDark)

/-- The checks and the output of `MONO` up to the output range (R110). -/
def monoPlan (skip : Bool) (black : Nat) (n : Snapshot) (s : State) : Except ErrorCode ImagePlan :=
  (imageChecks black n s).map fun (p, H) =>
    maskPlan (chooseBox skip n.ops.width.toNat H (s.darkAt n p)) (s.darkAt n p)

/-- `MONO` (R110). -/
def execMono (skip : Bool) (black : Nat) (s : State) : Host.Outcome State Fault Refusal :=
  withCommand s fun n => finishImage n n.pixelRange (monoPlan skip black n s) s

end Sys2Proof.Machine
end

