-- ==== Sys2Proof/Machine/Rotate.lean ====
section
/-! DEFINITION. The rotator and packer: `ROT.NONE`, `ROT.CW`, `ROT.CCW`, `ROT.180` (41_rotator.md). -/

namespace Sys2Proof.Machine

/-! ## Packing (R130) -/

/-- `ceil(W / 8)`, the row stride (R130). -/
def packStride (w : Nat) : Nat := (w + 7) / 8

/-- The weight of bit `b` of byte `k` of row `r`: the pixel of column `8k + b` at `2^(7 - b)`, 0 beyond the row's end
(R130). -/
def packTerm (w : Nat) (pix : Nat → Nat → Bool) (r k b : Nat) : Nat :=
  if decide (8 * k + b < w) && pix (8 * k + b) r then 2 ^ (7 - b) else 0

/-- Byte `k` of row `r` of the packed bitmap (R130). -/
def packByte (w : Nat) (pix : Nat → Nat → Bool) (r k : Nat) : Byte :=
  BitVec.ofNat 8 (((List.range 8).map (packTerm w pix r k)).sum)

/-- The packed bitmap: byte `r·S + k` is byte `k` of row `r` (R130). -/
def pack (w h : Nat) (pix : Nat → Nat → Bool) : List Byte :=
  (List.range (packStride w * h)).map fun i => packByte w pix (i / packStride w) (i % packStride w)

/-! ## The source's streaming form (R131): scan, accumulate, flush -/

/-- A scan step: the accumulator, how many pixels it holds, and the bytes flushed so far in order. -/
structure PackStream where
  acc : Nat
  count : Nat
  flushed : List Byte
  deriving DecidableEq, Repr

/-- Take one pixel MSB first, and flush after 8 pixels (R131). -/
def PackStream.push (st : PackStream) (dark : Bool) : PackStream :=
  let acc := st.acc + (if dark then 2 ^ (7 - st.count) else 0)
  if st.count = 7 then { acc := 0, count := 0, flushed := st.flushed ++ [BitVec.ofNat 8 acc] }
  else { acc := acc, count := st.count + 1, flushed := st.flushed }

/-- The end of an image row: flush what is left, the row tail zero-padded (R131). -/
def PackStream.endRow (st : PackStream) : PackStream :=
  if st.count = 0 then st else { acc := 0, count := 0, flushed := st.flushed ++ [BitVec.ofNat 8 st.acc] }

/-- One output row, columns in order (R131). -/
def PackStream.row (w : Nat) (pix : Nat → Nat → Bool) (st : PackStream) (r : Nat) : PackStream :=
  ((List.range w).foldl (fun st c => st.push (pix c r)) st).endRow

/-- The streaming form of packing: output rows in order (R131). -/
def packStream (w h : Nat) (pix : Nat → Nat → Bool) : List Byte :=
  ((List.range h).foldl (PackStream.row w pix) { acc := 0, count := 0, flushed := [] }).flushed

/-! ## Modes (R134 to R137) -/

/-- Output width of a mode on a `w × h` mask. -/
def rotW : RotMode → Nat → Nat → Nat
  | .none, w, _ => w
  | .cw, _, h => h
  | .ccw, _, h => h
  | .half, w, _ => w

/-- Output height of a mode on a `w × h` mask. -/
def rotH : RotMode → Nat → Nat → Nat
  | .none, _, h => h
  | .cw, w, _ => w
  | .ccw, w, _ => w
  | .half, _, h => h

/-- Output pixel `(c, r)` of a mode on the `w × h` mask `m` (R134 to R137). -/
def rotPix (mode : RotMode) (w h : Nat) (m : Nat → Nat → Bool) (c r : Nat) : Bool :=
  match mode with
  | .none => m c r
  | .cw => m r (h - 1 - c)
  | .ccw => m (w - 1 - r) c
  | .half => m (w - 1 - c) (h - 1 - r)

/-- The output of a rotation of the `w × h` mask `m` whose origin in the source is `(x0, y0)` (R133; 43_pipeline.md
R180). -/
def rotatePlan (mode : RotMode) (x0 y0 w h : Nat) (m : Nat → Nat → Bool) : ImagePlan where
  boxX := x0
  boxY := y0
  maskW := w
  maskH := h
  outW := rotW mode w h
  outH := rotH mode w h
  stride := packStride (rotW mode w h)
  bytes := pack (rotW mode w h) (rotH mode w h) (rotPix mode w h m)

/-! ## The commands -/

/-- The checks and the output of `ROT.<mode>` up to the output range (R133). -/
def rotPlan (mode : RotMode) (n : Snapshot) (s : State) : Except ErrorCode ImagePlan :=
  if n.maskRange.valid s.cfg then .ok (rotatePlan mode 0 0 n.ops.width.toNat n.ops.height.toNat (s.maskPixel n))
  else .error .srcRange

/-- The common procedure of the `ROT` commands (R133). -/
def runRot (mode : RotMode) (s : State) : Host.Outcome State Fault Refusal :=
  withCommand s fun n => finishImage n n.maskRange (rotPlan mode n s) s

/-- `ROT.NONE` (R134). -/
def execRotNone (s : State) : Host.Outcome State Fault Refusal := runRot .none s

/-- `ROT.CW` (R136). -/
def execRotCw (s : State) : Host.Outcome State Fault Refusal := runRot .cw s

/-- `ROT.CCW` (R137). -/
def execRotCcw (s : State) : Host.Outcome State Fault Refusal := runRot .ccw s

/-- `ROT.180` (R135). -/
def execRot180 (s : State) : Host.Outcome State Fault Refusal := runRot .half s

end Sys2Proof.Machine
end

