-- ==== Sys2Proof/Machine/Pipeline.lean ====
section
/-! DEFINITION. The fused pipeline: `MONOPACK` (43_pipeline.md). -/

namespace Sys2Proof.Machine

/-- The checks and the output of `MONOPACK` up to the output range: the cropped mask, held internally and never written
to memory, then rotated and packed (R180, R181). -/
def monopackPlan (mode : RotMode) (skip : Bool) (black : Nat) (n : Snapshot) (s : State) :
    Except ErrorCode ImagePlan :=
  (imageChecks black n s).map fun (p, H) =>
    let box := chooseBox skip n.ops.width.toNat H (s.darkAt n p)
    rotatePlan mode box.x box.y box.w box.h (cropped box (s.darkAt n p))

/-- `MONOPACK` (R180). -/
def execMonopack (mode : RotMode) (skip : Bool) (black : Nat) (s : State) : Host.Outcome State Fault Refusal :=
  withCommand s fun n => finishImage n n.pixelRange (monopackPlan mode skip black n s) s

end Sys2Proof.Machine
end

