-- ==== Sys2Proof/Machine/Hazard.lean ====
section
/-! DEFINITION. The ranges of a command and of the command in flight (60_exceptions.md R205, R206), and the
buffer-memory hazard (70_reset_and_hazards.md R246). -/

namespace Sys2Proof.Machine

/-- The source range of a command (60_exceptions.md R205). -/
def sourceRange (i : Instr) (n : Snapshot) : Range :=
  match i with
  | .mono _ _ => n.pixelRange
  | .rotNone => n.maskRange
  | .rotCw => n.maskRange
  | .rotCcw => n.maskRange
  | .rot180 => n.maskRange
  | .monopack _ _ _ => n.pixelRange
  | .crc u => n.stringRange u

/-- The output a command plans, when its checks up to the source range pass (60_exceptions.md R206). `CRC` has none. -/
def plannedOutput (i : Instr) (n : Snapshot) (s : State) : Option ImagePlan :=
  match i with
  | .mono skip black => (monoPlan skip black n s).toOption
  | .rotNone => (rotPlan .none n s).toOption
  | .rotCw => (rotPlan .cw n s).toOption
  | .rotCcw => (rotPlan .ccw n s).toOption
  | .rot180 => (rotPlan .half n s).toOption
  | .monopack rot skip black => (monopackPlan rot skip black n s).toOption
  | .crc _ => none

/-- The output range of a command: `(DST_ADDR, n)` with the length `n` it computes, empty when it computes none
(60_exceptions.md R206). -/
def outputRange (i : Instr) (n : Snapshot) (s : State) : Range :=
  { base := n.ops.dstAddr.toNat, len := ((plannedOutput i n s).map ImagePlan.len).getD 0 }

/-- The command in flight, unless the engine is idle or the word is illegal: its snapshot and what it decodes to. -/
def State.inFlight (s : State) : Option (Instr × Snapshot) :=
  match s.engine with
  | .idle => none
  | .busy n _ => (decode n.cmd).toOption.map fun i => (i, n)

/-- `a` is a byte of the source range of the command in flight. -/
def State.inSource (s : State) (a : Nat) : Bool :=
  match s.inFlight with
  | none => false
  | some (i, n) => (sourceRange i n).contains a

/-- `a` is a byte of the output range of the command in flight. -/
def State.inOutput (s : State) (a : Nat) : Bool :=
  match s.inFlight with
  | none => false
  | some (i, n) => (outputRange i n s).contains a

/-- A host read of `n` bytes at `a` breaches the hazard rule: it touches an output byte (70_reset_and_hazards.md R246).
DESIGN CHOICE, safe: a byte in both the source and the output range, of a command that will end in `OVERLAP`, counts as an
output byte, so its read is a breach, although R246 allows reads of the source range: log 20. -/
def State.readHazard (s : State) (a n : Nat) : Bool := (List.range n).any fun k => s.inOutput (a + k)

/-- A host write of `n` bytes at `a` breaches the hazard rule: it touches a source or an output byte
(70_reset_and_hazards.md R246). -/
def State.writeHazard (s : State) (a n : Nat) : Bool :=
  (List.range n).any fun k => s.inSource (a + k) || s.inOutput (a + k)

end Sys2Proof.Machine
end

