-- ==== Sys2Proof/Machine/Bus.lean ====
section
/-! DEFINITION. The host's side: the register map (10_state.md R21, R22), the buffer window (20_memory.md R62) and the
bus that reaches both (R61, R62, R75). -/

namespace Sys2Proof.Machine

/-! ## Register map (10_state.md R21) -/

/-- The offset of a register (R21). -/
def Reg.offset : Reg → Nat
  | .id => 0x000
  | .status => 0x004
  | .cmd => 0x008
  | .intEn => 0x00C
  | .srcAddr => 0x010
  | .srcLen => 0x014
  | .dstAddr => 0x018
  | .width => 0x01C
  | .height => 0x020
  | .boxX => 0x040
  | .boxY => 0x044
  | .maskW => 0x048
  | .maskH => 0x04C
  | .outW => 0x050
  | .outH => 0x054
  | .outStride => 0x058
  | .outLen => 0x05C
  | .crcVal => 0x060
  | .crcHex => 0x064

/-- The registers in the order of the map (R21). -/
def allRegs : List Reg :=
  [.id, .status, .cmd, .intEn, .srcAddr, .srcLen, .dstAddr, .width, .height,
   .boxX, .boxY, .maskW, .maskH, .outW, .outH, .outStride, .outLen, .crcVal, .crcHex]

/-- The register at an offset; none for a reserved offset (R21). -/
def regAt (off : Nat) : Option Reg := allRegs.find? fun r => decide (r.offset = off)

/-- The constant that `ID` holds: `Z`, `P`, `L`, version 1 (10_state.md R23). -/
def idValue : Word := 0x5A504C01

/-- What the host reads from a register: no side effects (10_state.md R22); unused bits are 0. -/
def readReg (r : Reg) (s : State) : Word :=
  match r with
  | .id => idValue
  | .status => s.statusWord
  | .cmd => s.cmd
  | .intEn => s.intEnWord
  | .srcAddr => s.ops.srcAddr
  | .srcLen => s.ops.srcLen
  | .dstAddr => s.ops.dstAddr
  | .width => s.ops.width
  | .height => s.ops.height
  | .boxX => s.image.boxX
  | .boxY => s.image.boxY
  | .maskW => s.image.maskW
  | .maskH => s.image.maskH
  | .outW => s.image.outW
  | .outH => s.image.outH
  | .outStride => s.image.outStride
  | .outLen => s.image.outLen
  | .crcVal => s.crc.val.setWidth 32
  | .crcHex => s.crc.hex

/-- A host write of `v` to a register: `CMD` issues (R31), `STATUS` is write-1-to-clear (R29), the operand registers
and `INT_EN` take the value at once even while busy (R45), and the RO registers ignore it (R21). -/
def writeReg (r : Reg) (v : Word) (s : State) : State :=
  match r with
  | .id => s
  | .status => writeStatus v s
  | .cmd => writeCommand v s
  | .intEn => writeIntEn v s
  | .srcAddr => s.setOps { s.ops with srcAddr := v }
  | .srcLen => s.setOps { s.ops with srcLen := v }
  | .dstAddr => s.setOps { s.ops with dstAddr := v }
  | .width => s.setOps { s.ops with width := v }
  | .height => s.setOps { s.ops with height := v }
  | .boxX => s
  | .boxY => s
  | .maskW => s
  | .maskH => s
  | .outW => s
  | .outH => s
  | .outStride => s
  | .outLen => s
  | .crcVal => s
  | .crcHex => s

/-- A read at an aligned offset: a reserved offset reads as 0 (R21). -/
def readOffset (off : Nat) (s : State) : Word :=
  match regAt off with
  | some r => readReg r s
  | none => 0

/-- A write at an aligned offset: a reserved offset ignores it (R21). -/
def writeOffset (off : Nat) (v : Word) (s : State) : State :=
  match regAt off with
  | some r => writeReg r v s
  | none => s

/-! ## Bus accesses -/

/-- Bytes of an access. -/
def Size.bytes : Size → Nat
  | .b1 => 1
  | .b2 => 2
  | .b4 => 4

/-- What a host bus address reaches. -/
inductive Target where
  | register (offset : Nat)
  | buffer (a : Nat)
  | nowhere
  deriving DecidableEq, Repr

/-- The register block answers `REG_BASE` to `REG_BASE + 0xFF` (20_memory.md R61), the window every address from
`BUF_BASE` up (R62); the register block wins where the two overlap, and an address below both reaches nothing (log 8). -/
def target (cfg : Config) (addr : Nat) : Target :=
  if decide (cfg.regBase ≤ addr) && decide (addr < cfg.regBase + 256) then .register (addr - cfg.regBase)
  else if cfg.bufBase ≤ addr then .buffer (addr - cfg.bufBase)
  else .nowhere

/-- Only aligned 32-bit register accesses are defined (10_state.md R22). -/
def registerAccessOk (off : Nat) (size : Size) : Bool := decide (size = .b4) && decide (off % 4 = 0)

/-- A window access must be aligned to its size and wholly inside the memory (20_memory.md R62). -/
def windowAccessOk (cfg : Config) (a : Nat) (size : Size) : Bool :=
  decide (a % size.bytes = 0) && decide (a + size.bytes ≤ cfg.memBytes)

/-- The bus error response: nothing else changes (10_state.md R22; 60_exceptions.md R225). -/
def busError (s : State) : State := s.setResponse .busError

/-- A host read (10_state.md R22; 20_memory.md R62, R63; 70_reset_and_hazards.md R246). -/
def hostRead (addr : Nat) (size : Size) (s : State) : Host.Outcome State Fault Refusal :=
  if s.inReset then .fault .accessInReset
  else
    match target s.cfg addr with
    | .register off =>
      if registerAccessOk off size then .next (s.setResponse (.data (readOffset off s))) else .next (busError s)
    | .buffer a =>
      if windowAccessOk s.cfg a size then
        if s.readHazard a size.bytes then .fault .bufferHazard
        else .next (s.setResponse (.data (BitVec.ofNat 32 (s.memRead a size.bytes))))
      else .next (busError s)
    | .nowhere => .next (busError s)

/-- A host write of the low bytes of `v` (10_state.md R22; 20_memory.md R62, R63; 70_reset_and_hazards.md R246). -/
def hostWrite (addr : Nat) (size : Size) (v : Word) (s : State) : Host.Outcome State Fault Refusal :=
  if s.inReset then .fault .accessInReset
  else
    match target s.cfg addr with
    | .register off =>
      if registerAccessOk off size then .next ((writeOffset off v s).setResponse .ack) else .next (busError s)
    | .buffer a =>
      if windowAccessOk s.cfg a size then
        if s.writeHazard a size.bytes then .fault .bufferHazard
        else .next ((s.memWrite a size.bytes v.toNat).setResponse .ack)
      else .next (busError s)
    | .nowhere => .next (busError s)

end Sys2Proof.Machine
end

