-- ==== Sys2Proof/Machine/Dispatch.lean ====
section
/-! DEFINITION. One arm per command: its completion step (00_scope.md R14). -/

namespace Sys2Proof.Machine

def exec (i : Instr) (s : State) : Host.Outcome State Fault Refusal :=
  match i with
  | .mono skip black => Sys2Proof.Machine.execMono skip black s
  | .rotNone => Sys2Proof.Machine.execRotNone s
  | .rotCw => Sys2Proof.Machine.execRotCw s
  | .rotCcw => Sys2Proof.Machine.execRotCcw s
  | .rot180 => Sys2Proof.Machine.execRot180 s
  | .monopack rot skip black => Sys2Proof.Machine.execMonopack rot skip black s
  | .crc unit => Sys2Proof.Machine.execCrc unit s

end Sys2Proof.Machine
end

