-- ==== Sys2Proof/Machine/ResetInput.lean ====
section
/-! DEFINITION. The reset input (70_reset_and_hazards.md R240 to R242). -/

namespace Sys2Proof.Machine

/-- Every register takes its reset value (10_state.md R51; 70_reset_and_hazards.md R240). -/
def resetRegisters (s : State) : State :=
  (((((s.setStatus .reset).setCmd 0).setIntEn 0).setOps .reset).setImage .reset).setCrc .reset

/-- The part of a range that lies in the buffer memory. -/
def Range.clip (r : Range) (cfg : Config) : Range := { base := r.base, len := min r.len (cfg.memBytes - r.base) }

/-- What abandoning the command in flight does to memory: every byte of its output range becomes an unconstrained draw
and no other byte changes (70_reset_and_hazards.md R241; log 6). -/
def abandonCommand (s : State) : State :=
  match s.inFlight with
  | none => s
  | some (i, n) =>
    let out := (outputRange i n s).clip s.cfg
    (s.storeBytes out.base ((List.range out.len).map fun k => Config.abandonedByte s.draws (out.base + k))).setDraws
      (s.draws + 1)

/-- Reset is asserted: a command in flight is abandoned, every register takes its reset value and the engine is idle
(70_reset_and_hazards.md R240, R241); memory is otherwise unchanged (R242). -/
def assertReset (s : State) : State := ((resetRegisters (abandonCommand s)).setEngine .idle).setInReset true

/-- Reset is released: accesses are accepted at once (70_reset_and_hazards.md R240). -/
def releaseReset (s : State) : State := s.setInReset false

end Sys2Proof.Machine
end

