-- ==== Sys2Proof/Machine/Schedule.lean ====
section
/-! DEFINITION. Whose move it is and what it does: the engine's completion step (60_exceptions.md R208) and the moves of
the outside world (log 3). -/

namespace Sys2Proof.Machine

/-- The completion step of the command whose snapshot is `n`: decode its word, then run it (60_exceptions.md R208,
R203). -/
def completeCommand (n : Snapshot) (s : State) : Host.Outcome State Fault Refusal :=
  match decode n.cmd with
  | .ok i => exec i s
  | .error _ => .next (raiseError .illegalCommand s)

/-- The engine's move: complete the command in flight (10_state.md R47; 70_reset_and_hazards.md R250). An idle engine,
and an engine held in reset, do nothing. -/
def engineMove (s : State) : Host.Outcome State Fault Refusal :=
  if s.inReset then .next s
  else
    match s.engine with
    | .idle => .next s
    | .busy n _ => completeCommand n s

/-- A poll (30_encoding.md R94): a matching read ends it; until then the engine moves between two reads, so that an
accepted command completes (70_reset_and_hazards.md R250; log 3). -/
def pollMove (r : Reg) (mask value : Word) (s : State) : Host.Outcome State Fault Refusal :=
  if s.inReset then .fault .accessInReset
  else
    let read := s.setResponse (.data (readReg r s))
    if readReg r s &&& mask = value then .next read
    else engineMove (read.setInputs (.poll r mask value :: s.inputs))

/-- One move of the outside world, taken from the head of `inputs`. -/
def inputMove (input : Input) (s : State) : Host.Outcome State Fault Refusal :=
  match input with
  | .read addr size => hostRead addr size s
  | .write addr size value => hostWrite addr size value s
  | .poll r mask value => pollMove r mask value s
  | .engine => engineMove s
  | .resetAssert => .next (assertReset s)
  | .resetRelease => .next (releaseReset s)

/-- The next move: the oldest input's, or the engine's when none is left (log 3). -/
def nextMove (s : State) : Host.Outcome State Fault Refusal :=
  match s.inputs with
  | [] => engineMove s
  | input :: rest => inputMove input (s.setInputs rest)

/-- Let the engine move before the inputs that wait. -/
def engineFirst : List Input → List Input
  | [] => []
  | input :: rest => .engine :: input :: rest

/-- The command word `w` just accepted (10_state.md R44), the reset input released and the engine to move next (log 4). -/
def placeCommand (w : Word) (s : State) : State :=
  ((acceptCommand w s).setInReset false).setInputs (engineFirst s.inputs)

end Sys2Proof.Machine
end

