-- ==== Sys2Proof/Machine/Step.lean ====
section
/-! DEFINITION. One step of the machine. -/

namespace Sys2Proof.Machine

/-- One step: one move of the host, of the reset input, or of the engine. -/
def step (s : State) : Host.Outcome State Fault Refusal := nextMove s

/-- `s` with the command word of these bits accepted and the engine to move next, so that `step` runs it. There is no
program counter and no fetch (10_state.md R50): a command word reaches the engine by a `CMD` write (20_memory.md R74;
log 4). -/
def State.withFetchWord (s : State) (nbits w : Nat) : State := placeCommand (tableWord nbits w) s

end Sys2Proof.Machine
end

