-- ==== Sys2Proof/Machine/Assembler.lean ====
section
/-! DEFINITION. The text form of command words: assembler and disassembler (30_encoding.md R92, R93). -/

namespace Sys2Proof.Machine

/-- A line of text. -/
abbrev Text := List Char

/-- One decimal digit. -/
def decimalDigit (n : Nat) : Char := Char.ofNat (48 + n % 10)

/-- A number up to 99 in decimal, with no leading zero. -/
def decimal (n : Nat) : Text := if n < 10 then [decimalDigit n] else [decimalDigit (n / 10), decimalDigit n]

/-- The operand `black=<n>` (R92). -/
def blackText (n : Nat) : Text := "black=".toList ++ decimal n

/-- The name of a mode in a mnemonic (R82, R92). -/
def modeText : RotMode → Text
  | .none => "none".toList
  | .cw => "cw".toList
  | .ccw => "ccw".toList
  | .half => "180".toList

/-- A mode's name or its alias (R92, R93). -/
def modeOf (t : Text) : Option RotMode :=
  if t = "none".toList then some .none
  else if t = "cw".toList || t = "right".toList then some .cw
  else if t = "ccw".toList || t = "left".toList then some .ccw
  else if t = "180".toList || t = "invert".toList then some .half
  else none

/-- The words of a line, separated by single spaces. -/
def splitWords : Text → List Text
  | [] => [[]]
  | c :: cs =>
    if c = ' ' then [] :: splitWords cs
    else
      match splitWords cs with
      | [] => [[c]]
      | t :: ts => (c :: t) :: ts

/-- `black=<n>` with `<n>` a decimal threshold 1 to 99 (R92; log 14). -/
def blackOf (t : Text) : Option Nat := ((List.range 99).map (· + 1)).find? fun n => decide (t = blackText n)

/-- The operands `[black=<n>] [nocrop]`: `BLACK` is 0 when omitted, `SKIP` is 1 iff `nocrop` (R92). -/
def optionsOf : List Text → Option (Bool × Nat)
  | [] => some (false, 0)
  | [t] => if t = "nocrop".toList then some (true, 0) else (blackOf t).map fun n => (false, n)
  | [t, u] => if u = "nocrop".toList then (blackOf t).map fun n => (true, n) else none
  | _ => none

/-- What follows a prefix. -/
def stripPrefix : Text → Text → Option Text
  | [], t => some t
  | _ :: _, [] => none
  | c :: cs, d :: ds => if c = d then stripPrefix cs ds else none

/-- The command of a mnemonic and its operands (R92, R93). -/
def commandOf (mnemonic : Text) (operands : List Text) : Option Instr :=
  if mnemonic = "mono".toList then (optionsOf operands).map fun o => .mono o.1 o.2
  else if mnemonic = "crc.b8".toList then (if operands = [] then some (.crc .b8) else none)
  else if mnemonic = "crc.u16".toList then (if operands = [] then some (.crc .u16) else none)
  else
    match stripPrefix "rot.".toList mnemonic with
    | some m => if operands = [] then (modeOf m).map Instr.ofRot else none
    | none =>
      match stripPrefix "monopack.".toList mnemonic with
      | some m => (modeOf m).bind fun mode => (optionsOf operands).map fun o => .monopack mode o.1 o.2
      | none => none

/-- The assembler: the word of a line (R92, R93). -/
def assemble (line : Text) : Option Word :=
  match splitWords line with
  | [] => none
  | mnemonic :: operands => (commandOf mnemonic operands).map encode

/-- The operands as printed: `BLACK` = 0 prints no `black=` (R92). -/
def optionsText (skip : Bool) (black : Nat) : Text :=
  (if black = 0 then [] else ' ' :: blackText black) ++ (if skip then " nocrop".toList else [])

/-- The text of a command; none for `BLACK` 100 to 127, to which no mnemonic assembles (R92; 95_test_vectors.md P4). -/
def instrText : Instr → Option Text
  | .mono skip black => if black ≤ 99 then some ("mono".toList ++ optionsText skip black) else none
  | .rotNone => some "rot.none".toList
  | .rotCw => some "rot.cw".toList
  | .rotCcw => some "rot.ccw".toList
  | .rot180 => some "rot.180".toList
  | .monopack mode skip black =>
    if black ≤ 99 then some ("monopack.".toList ++ modeText mode ++ optionsText skip black) else none
  | .crc .b8 => some "crc.b8".toList
  | .crc .u16 => some "crc.u16".toList

/-- A lowercase hex digit. -/
def hexChar (n : Nat) : Char := if n % 16 ≤ 9 then Char.ofNat (48 + n % 16) else Char.ofNat (87 + n % 16)

/-- Eight hex digits, most significant first. -/
def hex8 (w : Word) : Text := [7, 6, 5, 4, 3, 2, 1, 0].map fun k => hexChar (w.toNat / 16 ^ k)

/-- The disassembler: `.illegal 0x<8 hex digits>` for every illegal word (R92); none where the spec gives no text
(log 14). -/
def disassemble (w : Word) : Option Text :=
  match decode w with
  | .ok i => instrText i
  | .error _ => some (".illegal 0x".toList ++ hex8 w)

end Sys2Proof.Machine
end

