-- ==== Sys2Proof/Machine/HostProgram.lean ====
section
/-! DEFINITION. The notation of host programs (30_encoding.md R94), compiled to moves of the host. -/

namespace Sys2Proof.Machine

/-- One step of a host program (R94). -/
inductive HostStep where
  /-- `wr32 <REG>, <value>` -/
  | wr32 (reg : Reg) (value : Word)
  /-- `wr8 <addr>, <byte>...`: consecutive buffer bytes from `addr` -/
  | wr8 (addr : Nat) (bytes : List Byte)
  /-- `cmd <mnemonic>` -/
  | cmd (i : Instr)
  /-- `poll <REG>.<FIELD> == <v>`: the field's bits are `mask`, in place -/
  | poll (reg : Reg) (mask value : Word)
  /-- `rd32 <REG>` -/
  | rd32 (reg : Reg)
  deriving DecidableEq, Repr

/-- The host bus address of a register (20_memory.md R61). -/
def regAddr (cfg : Config) (r : Reg) : Nat := cfg.regBase + r.offset

/-- Byte writes through the window from buffer address `a` up (20_memory.md R62). -/
def byteWrites (cfg : Config) : Nat → List Byte → List Input
  | _, [] => []
  | a, b :: bs => .write (cfg.bufBase + a) .b1 (b.setWidth 32) :: byteWrites cfg (a + 1) bs

/-- The host's accesses for one step of a program (R94). -/
def HostStep.inputs (cfg : Config) : HostStep → List Input
  | .wr32 r v => [.write (regAddr cfg r) .b4 v]
  | .wr8 a bs => byteWrites cfg a bs
  | .cmd i => [.write (regAddr cfg .cmd) .b4 (encode i)]
  | .poll r mask v => [.poll r mask v]
  | .rd32 r => [.read (regAddr cfg r) .b4]

/-- The host's accesses for a program, in order (R94; 20_memory.md R70). -/
def programInputs (cfg : Config) (p : List HostStep) : List Input := (p.map (HostStep.inputs cfg)).flatten

end Sys2Proof.Machine
end

