-- ==== Sys2Proof/Safety.lean ====
section
/-! DEFINITION. What a good state and a good run are, in the terms the statements use. -/

namespace Sys2Proof.Machine

/-- Every listed byte has an address of the buffer memory (20_memory.md R60). -/
abbrev State.memInside (s : State) : Prop := ∀ c ∈ s.mem, c.1 < s.cfg.memBytes

/-- While reset is asserted every register holds its reset value and the engine is idle (70_reset_and_hazards.md R240). -/
abbrev State.heldInReset (s : State) : Prop :=
  s.inReset = true →
    s.engine = .idle ∧ s.status = .reset ∧ s.cmd = 0 ∧ s.intEn = 0 ∧ s.ops = .reset ∧ s.image = .reset ∧ s.crc = .reset

/-- The flags of `STATUS` agree with each other and with the engine (10_state.md R24 to R30, 60_exceptions.md R200). -/
structure State.FlagsOk (s : State) : Prop where
  /-- `DONE` and `ERR` are never both 1 (R26) -/
  exclusive : ¬(s.status.done = true ∧ s.status.err = true)
  /-- acceptance cleared both, and completion has not set one yet (R44) -/
  clearWhileBusy : s.busy = true → s.status.done = false ∧ s.status.err = false
  /-- codes 8 to 15 are never produced (60_exceptions.md R200) -/
  codeLegal : s.status.errcode.toNat ≤ 7
  /-- `DONE` goes with code 0 (R30) -/
  doneCode : s.status.done = true → s.status.errcode = 0
  /-- `ERR` goes with a nonzero code (R30) -/
  errCode : s.status.err = true → s.status.errcode ≠ 0

/-- The registers that the spec relates agree (10_state.md R31, R42, R43). -/
structure State.RegistersOk (s : State) : Prop where
  /-- `OUT_LEN = OUT_STRIDE × OUT_H`, exactly (R42) -/
  outLen : s.image.outLen.toNat = s.image.outStride.toNat * s.image.outH.toNat
  /-- `CRC_HEX` is the rendering of `CRC_VAL` (R43) -/
  crcHex : s.crc.hex = hex4 s.crc.val
  /-- the snapshot's command word is the one `CMD` holds (R31, R44, R46) -/
  command : ∀ n acc, s.engine = .busy n acc → n.cmd = s.cmd

/-- The invariant of the machine. -/
structure State.Inv (s : State) : Prop where
  memWf : s.mem.wf
  memInside : s.memInside
  flags : s.FlagsOk
  registers : s.RegistersOk
  reset : s.heldInReset

/-! ## What a completion step leaves, in the terms the statements use -/

/-- What no completion step touches: the parameters, `CMD`, `INT_EN`, the operand registers, `OVR`, the reset input, the
host's moves and port, and the arguments of the free values. -/
structure State.SameShell (s t : State) : Prop where
  cfg : t.cfg = s.cfg
  cmd : t.cmd = s.cmd
  intEn : t.intEn = s.intEn
  ops : t.ops = s.ops
  ovr : t.status.ovr = s.status.ovr
  inReset : t.inReset = s.inReset
  inputs : t.inputs = s.inputs
  response : t.response = s.response
  powerUp : t.powerUp = s.powerUp
  draws : t.draws = s.draws

/-- `t` is `s` after a success completion, memory and result registers apart (60_exceptions.md R214). -/
structure State.Succeeded (s t : State) : Prop where
  shell : s.SameShell t
  engine : t.engine = .idle
  done : t.status.done = true
  errcode : t.status.errcode = 0
  err : t.status.err = s.status.err

/-- `t` is `s` after an error completion with this code: no byte and no result register is written (60_exceptions.md
R210). -/
structure State.Failed (code : BitVec 4) (s t : State) : Prop where
  shell : s.SameShell t
  engine : t.engine = .idle
  errcode : t.status.errcode = code
  err : t.status.err = true
  done : t.status.done = s.status.done
  mem : t.mem = s.mem
  image : t.image = s.image
  crc : t.crc = s.crc

/-- The image result registers hold these numbers, and `OUT_LEN` is stride times height (10_state.md R38 to R42). -/
structure State.ImageIs (t : State) (bx byy mw mh ow oh stride : Nat) : Prop where
  boxX : t.image.boxX.toNat = bx
  boxY : t.image.boxY.toNat = byy
  maskW : t.image.maskW.toNat = mw
  maskH : t.image.maskH.toNat = mh
  outW : t.image.outW.toNat = ow
  outH : t.image.outH.toNat = oh
  outStride : t.image.outStride.toNat = stride
  outLen : t.image.outLen.toNat = stride * oh

/-- The packed bitmap of width `w`, height `h` and pixels `pix` stands at `base`: pixel `(c, r)` is bit `7 - c mod 8` of
byte `base + r·S + c / 8`, and the bits of a row's last byte beyond its last column are 0 (20_memory.md R66). -/
def State.PackedAt (t : State) (base w h : Nat) (pix : Nat → Nat → Bool) : Prop :=
  ∀ r c, r < h → c < 8 * ((w + 7) / 8) →
    (t.byteAt (base + r * ((w + 7) / 8) + c / 8)).getLsbD (7 - c % 8) = (decide (c < w) && pix c r)

/-- Every byte outside `base .. base + len - 1` reads as before. -/
def State.SameOutside (s t : State) (base len : Nat) : Prop :=
  ∀ a, ¬(base ≤ a ∧ a < base + len) → t.byteAt a = s.byteAt a

/-- The pixel of a packed bitmap of width `w`: unpacking (41_rotator.md R138). -/
def unpackPixel (w : Nat) (bytes : List Byte) (c r : Nat) : Bool :=
  (bytes.getD (r * ((w + 7) / 8) + c / 8) 0).getLsbD (7 - c % 8)

/-- Rotating a packed bitmap again: unpack the `w × h` bitmap to a mask and run the mode on it (41_rotator.md R138). -/
def repack (mode : RotMode) (w h : Nat) (bytes : List Byte) : List Byte :=
  pack (rotW mode w h) (rotH mode w h) (rotPix mode w h (unpackPixel w bytes))

/-- The number of 1 bits of a byte. -/
def onesOf (b : Byte) : Nat := ((List.range 8).filter fun k => b.getLsbD k).length

/-! ## Good runs -/

/-- How a step may end: in a next state, or in a stop for a rule the host must keep (70_reset_and_hazards.md R240,
R246). No step stops for want of a meaning or of a command. -/
def goesOnOrHostBreach : Host.Outcome State Fault Refusal → Prop
  | .next _ => True
  | .fault .bufferHazard => True
  | .fault .accessInReset => True
  | .fault .noCommand => False
  | .refused _ => False

end Sys2Proof.Machine
end

