-- ==== Sys2Proof/Certificates/Slice0/Obligations.lean ====
section
/-! DEFINITION. The statements for the provers. -/

open Sys2Proof Sys2Proof.Machine

/-! ## Encoding (30_encoding.md) -/

/-- Decode and encode agree: no bit of a command word is dropped (R80, R88, R89). -/
def Obligations.DecodeOfEncodeIsTheCommand : Prop :=
  ∀ i : Instr, i.wellFormed = true → decode (encode i) = .ok i

/-- Every legal word is the encoding of the command it decodes to (R87: every word is exactly one command or illegal). -/
def Obligations.EncodeOfDecodeIsTheWord : Prop :=
  ∀ (w : Word) (i : Instr), decode w = .ok i → i.wellFormed = true ∧ encode i = w

/-- The decoder follows the case split of R88, with every field read as a number out of the word's value (R11): a
reserved bit set, a nonzero field that the `OP` does not use and a reserved `OP` are illegal (R81, R86, R87). The spec has
one verdict, ILLEGAL; the three names of it are the model's own choice: log 19. -/
def Obligations.DecodeFollowsTheFieldRules : Prop :=
  ∀ (w : Word) (op rot skip cuw black high : Nat),
    op = w.toNat % 16 → rot = w.toNat / 16 % 4 → skip = w.toNat / 64 % 2 → cuw = w.toNat / 128 % 2 →
    black = w.toNat / 256 % 128 → high = w.toNat / 32768 →
    (high ≠ 0 → decode w = .error .reservedBits) ∧
    (high = 0 →
      (op = 1 → if rot = 0 ∧ cuw = 0 then decode w = .ok (.mono (decide (skip = 1)) black)
        else decode w = .error .unusedField) ∧
      (op = 2 → if skip = 0 ∧ cuw = 0 ∧ black = 0 then
          (rot = 0 → decode w = .ok .rotNone) ∧ (rot = 1 → decode w = .ok .rotCw) ∧
          (rot = 2 → decode w = .ok .rotCcw) ∧ (rot = 3 → decode w = .ok .rot180)
        else decode w = .error .unusedField) ∧
      (op = 3 → if cuw = 0 then
          (rot = 0 → decode w = .ok (.monopack .none (decide (skip = 1)) black)) ∧
          (rot = 1 → decode w = .ok (.monopack .cw (decide (skip = 1)) black)) ∧
          (rot = 2 → decode w = .ok (.monopack .ccw (decide (skip = 1)) black)) ∧
          (rot = 3 → decode w = .ok (.monopack .half (decide (skip = 1)) black))
        else decode w = .error .unusedField) ∧
      (op = 4 → if rot = 0 ∧ skip = 0 ∧ black = 0 then
          (cuw = 0 → decode w = .ok (.crc .b8)) ∧ (cuw = 1 → decode w = .ok (.crc .u16))
        else decode w = .error .unusedField) ∧
      (op = 0 ∨ 5 ≤ op → decode w = .error .reservedOp))

/-- The opcode map (R89): a word is the command of a row iff `w & mask = match`, rows do not overlap, and a word that
matches no row is illegal. -/
def Obligations.CommandIffWordMatchesItsRow : Prop :=
  opcodeMap =
    [⟨"MONO", 0x00000001, 0xFFFF80BF⟩, ⟨"ROT.NONE", 0x00000002, 0xFFFFFFFF⟩, ⟨"ROT.CW", 0x00000012, 0xFFFFFFFF⟩,
     ⟨"ROT.CCW", 0x00000022, 0xFFFFFFFF⟩, ⟨"ROT.180", 0x00000032, 0xFFFFFFFF⟩,
     ⟨"MONOPACK", 0x00000003, 0xFFFF808F⟩, ⟨"CRC", 0x00000004, 0xFFFFFF7F⟩] ∧
  ∀ w : Word,
    (∀ r ∈ opcodeMap, w &&& r.mask = r.pattern ↔ ∃ i, decode w = .ok i ∧ i.row = r) ∧
    (∀ r ∈ opcodeMap, ∀ q ∈ opcodeMap, w &&& r.mask = r.pattern → w &&& q.mask = q.pattern → r = q) ∧
    ((∀ r ∈ opcodeMap, w &&& r.mask ≠ r.pattern) → ∃ e, decode w = .error e)

/-- A few words decode as the spec lists them: `ROT.CCW`'s in 30_encoding.md R89 (and 41_rotator.md R137), the others in
95_test_vectors.md 2.6. Which name an illegal word gets is the model's own: log 19. -/
def Obligations.ListedWordsDecodeAsListed : Prop :=
  decode 0x00000041 = .ok (.mono true 0) ∧ decode 0x00006301 = .ok (.mono false 99) ∧
  decode 0x00000013 = .ok (.monopack .cw false 0) ∧ decode 0x00003273 = .ok (.monopack .half true 50) ∧
  decode 0x00000022 = .ok .rotCcw ∧ decode 0x00000084 = .ok (.crc .u16) ∧
  decode 0x00008001 = .error .reservedBits ∧ decode 0x00000104 = .error .unusedField ∧
  decode 0x0000000F = .error .reservedOp

/-- The effective threshold (R85): 0 is 50, 1 to 99 are used as given, and with 100 to 127 the command ends in
`INVALID_THRESHOLD` (code 4) whatever its operands (60_exceptions.md R204). -/
def Obligations.ThresholdFieldIsReadAsStated : Prop :=
  threshold 0 = .ok 50 ∧ (∀ b, 1 ≤ b → b ≤ 99 → threshold b = .ok b) ∧
  ∀ (s : State) (n : Snapshot) (acc : BitVec 16) (mode : RotMode) (skip : Bool) (b : Nat),
    s.engine = .busy n acc → 100 ≤ b → b ≤ 127 →
    (∃ t, exec (.mono skip b) s = .next t ∧ s.Failed 4 t) ∧
    (∃ t, exec (.monopack mode skip b) s = .next t ∧ s.Failed 4 t)

/-- The printed text (R92): the text of a legal word assembles to the same word; every legal word with `BLACK` at most 99
has a text, with no `black=` for 0 and `black=<n>` for 1 to 99; an illegal word prints as `.illegal 0x` and the eight hex
digits of the word, most significant first. That the digits are lowercase and that a word with `BLACK` 100 to 127 has no
text are the model's choice: log 14. -/
def Obligations.PrintedTextAssemblesToTheSameWord : Prop :=
  (∀ (w : Word) (i : Instr) (text : Text), decode w = .ok i → disassemble w = some text → assemble text = some w) ∧
  (∀ (w : Word) (i : Instr), decode w = .ok i → w.toNat / 256 % 128 ≤ 99 →
    ∃ text, disassemble w = some text ∧ assemble text = some w) ∧
  (disassemble 0x02 = some "rot.none".toList ∧ disassemble 0x12 = some "rot.cw".toList ∧
    disassemble 0x22 = some "rot.ccw".toList ∧ disassemble 0x32 = some "rot.180".toList ∧
    disassemble 0x04 = some "crc.b8".toList ∧ disassemble 0x84 = some "crc.u16".toList) ∧
  (∀ (skip : Bool) (b : Nat) (options : String), b ≤ 99 →
    options = (if b = 0 then "" else " black=" ++ Nat.repr b) ++ (if skip then " nocrop" else "") →
    disassemble (encode (.mono skip b)) = some ("mono" ++ options).toList ∧
    disassemble (encode (.monopack .none skip b)) = some ("monopack.none" ++ options).toList ∧
    disassemble (encode (.monopack .cw skip b)) = some ("monopack.cw" ++ options).toList ∧
    disassemble (encode (.monopack .ccw skip b)) = some ("monopack.ccw" ++ options).toList ∧
    disassemble (encode (.monopack .half skip b)) = some ("monopack.180" ++ options).toList) ∧
  (∀ (w : Word) (e : Illegal), decode w = .error e →
    ∃ digits : Text, disassemble w = some (".illegal 0x".toList ++ digits) ∧ digits.length = 8 ∧
      ∀ k, k < 8 → digits[k]? = "0123456789abcdef".toList[w.toNat / 16 ^ (7 - k) % 16]?)

/-- The aliases assemble to their targets' words, whatever operands follow (R93). -/
def Obligations.AliasesAssembleToTheirTargets : Prop :=
  (∀ alias_target ∈ [("rot.right", "rot.cw"), ("rot.left", "rot.ccw"), ("rot.invert", "rot.180"),
      ("monopack.right", "monopack.cw"), ("monopack.left", "monopack.ccw"), ("monopack.invert", "monopack.180")],
    assemble alias_target.1.toList = assemble alias_target.2.toList ∧
    ∀ operands : Text, assemble (alias_target.1.toList ++ ' ' :: operands) =
      assemble (alias_target.2.toList ++ ' ' :: operands)) ∧
  assemble "rot.cw".toList = some 0x12 ∧ assemble "rot.ccw".toList = some 0x22 ∧
  assemble "rot.180".toList = some 0x32 ∧ assemble "monopack.cw".toList = some 0x13 ∧
  assemble "monopack.ccw".toList = some 0x23 ∧ assemble "monopack.180".toList = some 0x33 ∧
  assemble "mono".toList = some 0x00000001

/-! ## Registers and the bus (10_state.md, 20_memory.md, 60_exceptions.md) -/

/-- After reset (R51): every register at its value in the map, the engine idle with no snapshot, `irq` 0; reset itself
does not touch the buffer memory while no command is in flight. -/
def Obligations.ResetLeavesTheStatedValues : Prop :=
  (∀ r : Reg, readReg r State.reset = if r = .id then 0x5A504C01 else if r = .crcHex then 0x30303030 else 0) ∧
  (∀ off, regAt off = none → readOffset off State.reset = 0) ∧
  State.reset.engine = .idle ∧ State.reset.irq = false ∧
  (∀ s : State, s.engine = .idle → (assertReset s).mem = s.mem ∧ ∀ r : Reg, readReg r (assertReset s) = readReg r State.reset)

/-- An aligned 32-bit host read of a register offset (R21, R22) answers the register's value, and 0 at every offset the
map does not list; it changes nothing but the answer on the port and the host's own list of moves. -/
def Obligations.RegisterReadAnswersAndChangesNothing : Prop :=
  ∀ (s : State) (addr off : Nat) (rest : List Input),
    s.inReset = false → target s.cfg addr = .register off → off % 4 = 0 → s.inputs = .read addr .b4 :: rest →
    (∀ r : Reg, off = r.offset → step s = .next ((s.setInputs rest).setResponse (.data (readReg r s)))) ∧
    ((∀ r : Reg, off ≠ r.offset) → step s = .next ((s.setInputs rest).setResponse (.data 0)))

/-- A host write to a read-only register or to a reserved offset is acknowledged and changes no register, no byte and
nothing of the engine (R21, R22, R23). -/
def Obligations.ReadOnlyAndReservedOffsetsIgnoreWrites : Prop :=
  ∀ (s : State) (addr off : Nat) (v : Word) (rest : List Input),
    s.inReset = false → target s.cfg addr = .register off → off % 4 = 0 → s.inputs = .write addr .b4 v :: rest →
    (off = 0 ∨ (0x024 ≤ off ∧ off < 0x100)) → step s = .next ((s.setInputs rest).setResponse .ack)

/-- A host write to an operand register takes effect at once, idle or busy, and leaves a command in flight alone (R33 to
R37, R45); one to `INT_EN` keeps the three enables (R32). -/
def Obligations.OperandAndEnableWritesTakeEffectAtOnce : Prop :=
  ∀ (s : State) (addr off : Nat) (v : Word) (rest : List Input),
    s.inReset = false → target s.cfg addr = .register off → s.inputs = .write addr .b4 v :: rest →
    (off = 0x010 → step s = .next (((s.setInputs rest).setOps { s.ops with srcAddr := v }).setResponse .ack)) ∧
    (off = 0x014 → step s = .next (((s.setInputs rest).setOps { s.ops with srcLen := v }).setResponse .ack)) ∧
    (off = 0x018 → step s = .next (((s.setInputs rest).setOps { s.ops with dstAddr := v }).setResponse .ack)) ∧
    (off = 0x01C → step s = .next (((s.setInputs rest).setOps { s.ops with width := v }).setResponse .ack)) ∧
    (off = 0x020 → step s = .next (((s.setInputs rest).setOps { s.ops with height := v }).setResponse .ack)) ∧
    (off = 0x00C → ∃ t, step s = .next t ∧ t = ((s.setInputs rest).setIntEn t.intEn).setResponse .ack ∧
      (∀ k, k < 3 → t.intEn.getLsbD k = v.getLsbD k) ∧ (readReg .intEn t).toNat = v.toNat % 8)

/-- A misaligned or narrow register access, and a misaligned or out-of-range window access, gets a bus error response and
changes no state; no `STATUS` bit is set and `irq` keeps its level (60_exceptions.md R225; 10_state.md R22; 20_memory.md
R62). -/
def Obligations.BadAccessGetsBusErrorAndNoEffect : Prop :=
  ∀ (s : State) (addr : Nat) (size : Size) (v : Word) (rest : List Input),
    s.inReset = false → (s.inputs = .read addr size :: rest ∨ s.inputs = .write addr size v :: rest) →
    ((∃ off, target s.cfg addr = .register off ∧ (size ≠ .b4 ∨ off % 4 ≠ 0)) ∨
     (∃ a, target s.cfg addr = .buffer a ∧ (a % size.bytes ≠ 0 ∨ s.cfg.memBytes < a + size.bytes))) →
    step s = .next ((s.setInputs rest).setResponse .busError) ∧
    ((s.setInputs rest).setResponse .busError).irq = s.irq

/-- A window write stores its bytes little-endian and nothing else, and reading it back answers the value written
(20_memory.md R62, R63). -/
def Obligations.WindowWriteThenReadIsLittleEndian : Prop :=
  ∀ (s : State) (addr a : Nat) (size : Size) (v : Word) (rest : List Input),
    s.inReset = false → s.engine = .idle → target s.cfg addr = .buffer a → a % size.bytes = 0 →
    a + size.bytes ≤ s.cfg.memBytes → s.inputs = .write addr size v :: .read addr size :: rest →
    ∃ t u, step s = .next t ∧ step t = .next u ∧
      t = ((s.setMem t.mem).setInputs (.read addr size :: rest)).setResponse .ack ∧
      (∀ k, k < size.bytes → t.byteAt (a + k) = v.extractLsb' (8 * k) 8) ∧
      s.SameOutside t a size.bytes ∧
      u = (t.setInputs rest).setResponse (.data (BitVec.ofNat 32 (v.toNat % 256 ^ size.bytes)))

/-- A host write to `STATUS` (R29). -/
def Obligations.StatusWriteClearsExactlyTheWrittenBits : Prop :=
  ∀ (s : State) (addr : Nat) (v : Word) (rest : List Input),
    s.inReset = false → target s.cfg addr = .register 0x004 → s.inputs = .write addr .b4 v :: rest →
    ∃ t, step s = .next t ∧ t = ((s.setStatus t.status).setInputs rest).setResponse .ack ∧
      (t.status.done = if v.getLsbD 1 then false else s.status.done) ∧
      (t.status.err = if v.getLsbD 2 then false else s.status.err) ∧
      (t.status.ovr = if v.getLsbD 3 then false else s.status.ovr) ∧
      t.busy = s.busy ∧ t.status.errcode = s.status.errcode ∧
      (readReg .status t).extractLsb' 4 4 = 0 ∧ (readReg .status t).extractLsb' 12 20 = 0

/-- The `STATUS` word shows each field at its place (R24). -/
def Obligations.StatusWordShowsItsFields : Prop :=
  ∀ s : State,
    (readReg .status s).getLsbD 0 = s.busy ∧ (readReg .status s).getLsbD 1 = s.status.done ∧
    (readReg .status s).getLsbD 2 = s.status.err ∧ (readReg .status s).getLsbD 3 = s.status.ovr ∧
    (readReg .status s).extractLsb' 4 4 = 0 ∧ (readReg .status s).extractLsb' 8 4 = s.status.errcode ∧
    (readReg .status s).extractLsb' 12 20 = 0

/-- The interrupt output in terms of the two registers the host reads, driven on the input `IRQ_LINE` and on no other
(60_exceptions.md R215). -/
def Obligations.IrqIsTheOrOfEnabledSources : Prop :=
  ∀ s : State,
    s.irq = (((readReg .status s).getLsbD 1 && (readReg .intEn s).getLsbD 0) ||
      ((readReg .status s).getLsbD 2 && (readReg .intEn s).getLsbD 1) ||
      ((readReg .status s).getLsbD 3 && (readReg .intEn s).getLsbD 2)) ∧
    ∀ line, (s.drivesLine line = true ↔ line = s.cfg.irqLine ∧ s.irq = true)

/-- Acceptance (R44): a `CMD` write while idle. -/
def Obligations.CommandWriteWhileIdleIsAccepted : Prop :=
  ∀ (s : State) (addr : Nat) (w : Word) (rest : List Input),
    s.inReset = false → s.engine = .idle → target s.cfg addr = .register 0x008 → s.inputs = .write addr .b4 w :: rest →
    ∃ t, step s = .next t ∧ t.cmd = w ∧ (∃ acc, t.engine = .busy { cmd := w, ops := s.ops } acc) ∧ t.busy = true ∧
      t.status = { s.status with done := false, err := false } ∧
      t = (((((s.setCmd w).setStatus t.status).setEngine t.engine).setInputs rest).setResponse .ack)

/-- A `CMD` write while busy is dropped (R46). -/
def Obligations.CommandWriteWhileBusyIsDropped : Prop :=
  ∀ (s : State) (addr : Nat) (w : Word) (rest : List Input),
    s.inReset = false → s.busy = true → target s.cfg addr = .register 0x008 → s.inputs = .write addr .b4 w :: rest →
    step s = .next (((s.setStatus { s.status with ovr := true }).setInputs rest).setResponse .ack)

/-- `OVR` is set by a `CMD` write while busy and cleared only by a `STATUS` write with bit 3 set or by reset; acceptance
does not clear it (R28). -/
def Obligations.OverrunIsSetAndClearedOnlyAsStated : Prop :=
  (∀ (s t : State) (addr : Nat) (w : Word) (rest : List Input),
    s.busy = true → target s.cfg addr = .register 0x008 → s.inputs = .write addr .b4 w :: rest → step s = .next t →
    t.status.ovr = true) ∧
  (∀ s t : State, step s = .next t → s.status.ovr = true → t.status.ovr = false →
    (∃ rest, s.inputs = .resetAssert :: rest) ∨
    (∃ addr v rest, s.inputs = .write addr .b4 v :: rest ∧ target s.cfg addr = .register 0x004 ∧ v.getLsbD 3 = true)) ∧
  (∀ s w, (acceptCommand w s).status.ovr = s.status.ovr)

/-- While the engine stays busy the result registers and `ERRCODE` hold the previous command's values: they change only
in a completion step or in reset (70 R247; 10_state.md R30). -/
def Obligations.ResultsAreStaleWhileBusy : Prop :=
  (∀ s t : State, step s = .next t → s.busy = true → t.busy = true →
    t.image = s.image ∧ t.crc = s.crc ∧ t.status.errcode = s.status.errcode) ∧
  (∀ s t : State, step s = .next t →
    (t.image ≠ s.image ∨ t.crc ≠ s.crc ∨ t.status.errcode ≠ s.status.errcode) →
    (s.busy = true ∧ t.busy = false) ∨ (∃ rest, s.inputs = .resetAssert :: rest))

/-- The engine leaves the busy phase only by a completion step, which sets `DONE` or `ERR`, or by reset (R47). -/
def Obligations.BusyEndsOnlyByCompletionOrReset : Prop :=
  ∀ s t : State, step s = .next t → s.busy = true → t.busy = false →
    t.status.done = true ∨ t.status.err = true ∨ (∃ rest, s.inputs = .resetAssert :: rest)

/-- Asserting reset (70 R240 to R242): every register at its reset value, the engine idle, `irq` 0; no byte outside the
output range of the command in flight changes, and none at all when there is none. That range is the one the model
computes, `(DST_ADDR, n)` and not all of memory from `DST_ADDR` up, and its bytes become free values: the model's choice,
log 6. -/
def Obligations.ResetRestoresRegistersAndKeepsOtherMemory : Prop :=
  ∀ (s : State) (rest : List Input), s.inputs = .resetAssert :: rest →
    ∃ t, step s = .next t ∧ (∀ r : Reg, readReg r t = readReg r State.reset) ∧ t.engine = .idle ∧ t.irq = false ∧
      t.cfg = s.cfg ∧ t.powerUp = s.powerUp ∧ t.inputs = rest ∧
      (∀ a, s.inOutput a = false → t.byteAt a = s.byteAt a) ∧ (s.engine = .idle → t.mem = s.mem)

/-- A breach of the buffer hazard rule stops with a fault, and every other aligned access inside the window is carried
out (70 R246; 20_memory.md R62, R63): with a legal command in flight, a host read that touches no output byte and a host
write that touches neither range; with the engine idle or an illegal word in flight, which has neither range, every one.
The output range is the one the model computes (log 7), and a read of a byte in both ranges is a breach (log 20). -/
def Obligations.BufferHazardIsAFaultAndOtherAccessesAreNot : Prop :=
  ∀ (s : State) (addr a : Nat) (size : Size) (v : Word) (rest : List Input),
    s.inReset = false → target s.cfg addr = .buffer a → a % size.bytes = 0 → a + size.bytes ≤ s.cfg.memBytes →
    (∀ (n : Snapshot) (acc : BitVec 16) (i : Instr), s.engine = .busy n acc → decode n.cmd = .ok i →
      (s.inputs = .write addr size v :: rest →
        (∃ k, k < size.bytes ∧
          ((sourceRange i n).contains (a + k) = true ∨ (outputRange i n s).contains (a + k) = true)) →
        step s = .fault .bufferHazard) ∧
      (s.inputs = .read addr size :: rest →
        (∃ k, k < size.bytes ∧ (outputRange i n s).contains (a + k) = true) → step s = .fault .bufferHazard) ∧
      (s.inputs = .read addr size :: rest →
        (∀ k, k < size.bytes → (outputRange i n s).contains (a + k) = false) →
        step s = .next ((s.setInputs rest).setResponse (.data (BitVec.ofNat 32 (s.memRead a size.bytes))))) ∧
      (s.inputs = .write addr size v :: rest →
        (∀ k, k < size.bytes →
          (sourceRange i n).contains (a + k) = false ∧ (outputRange i n s).contains (a + k) = false) →
        ∃ t, step s = .next t ∧ t = ((s.setMem t.mem).setInputs rest).setResponse .ack ∧
          (∀ k, k < size.bytes → t.byteAt (a + k) = v.extractLsb' (8 * k) 8) ∧ s.SameOutside t a size.bytes)) ∧
    ((s.engine = .idle ∨ ∃ (n : Snapshot) (acc : BitVec 16) (e : Illegal),
        s.engine = .busy n acc ∧ decode n.cmd = .error e) →
      (s.inputs = .read addr size :: rest →
        step s = .next ((s.setInputs rest).setResponse (.data (BitVec.ofNat 32 (s.memRead a size.bytes))))) ∧
      (s.inputs = .write addr size v :: rest →
        ∃ t, step s = .next t ∧ t = ((s.setMem t.mem).setInputs rest).setResponse .ack ∧
          (∀ k, k < size.bytes → t.byteAt (a + k) = v.extractLsb' (8 * k) 8) ∧ s.SameOutside t a size.bytes))

/-- While the reset input is asserted the engine does nothing, and release changes nothing else (70 R240); a host access
stops with a fault, which is the model's choice: log 5. -/
def Obligations.AssertedResetHoldsTheBlock : Prop :=
  ∀ (s : State) (rest : List Input), s.inReset = true →
    (s.inputs = [] → step s = .next s) ∧ (s.inputs = .engine :: rest → step s = .next (s.setInputs rest)) ∧
    (s.inputs = .resetRelease :: rest → step s = .next ((s.setInputs rest).setInReset false)) ∧
    (∀ addr size v, s.inputs = .read addr size :: rest ∨ s.inputs = .write addr size v :: rest →
      step s = .fault .accessInReset)

/-- The steps of a host program (30_encoding.md R94) do what they say: registers by name, commands by their words, buffer
bytes one by one, and a poll that ends when the field has the value and otherwise lets the command in flight complete
(log 3). -/
def Obligations.HostProgramStepsDoWhatTheySay : Prop :=
  ∀ (s : State) (rest : List Input), s.inReset = false →
    (∀ r v, s.inputs = HostStep.inputs s.cfg (.wr32 r v) ++ rest →
      step s = .next ((writeReg r v (s.setInputs rest)).setResponse .ack)) ∧
    (∀ r, s.inputs = HostStep.inputs s.cfg (.rd32 r) ++ rest →
      step s = .next ((s.setInputs rest).setResponse (.data (readReg r s)))) ∧
    (∀ i, s.engine = .idle → s.inputs = HostStep.inputs s.cfg (.cmd i) ++ rest →
      ∃ t, step s = .next t ∧ t.cmd = encode i ∧ t.busy = true ∧ t.inputs = rest) ∧
    (∀ a b bs, s.engine = .idle → target s.cfg (s.cfg.bufBase + a) = .buffer a → a < s.cfg.memBytes →
      s.inputs = HostStep.inputs s.cfg (.wr8 a (b :: bs)) ++ rest →
      ∃ t, step s = .next t ∧ t.byteAt a = b ∧ s.SameOutside t a 1 ∧
        t.inputs = HostStep.inputs s.cfg (.wr8 (a + 1) bs) ++ rest) ∧
    (∀ r mask v, s.inputs = HostStep.inputs s.cfg (.poll r mask v) ++ rest →
      (readReg r s &&& mask = v → step s = .next ((s.setInputs rest).setResponse (.data (readReg r s)))) ∧
      (readReg r s &&& mask ≠ v → s.busy = true →
        ∃ t, step s = .next t ∧ t.busy = false ∧ t.inputs = s.inputs ∧
          (t.status.done = true ∨ t.status.err = true)))

/-! ## Steps -/

/-- A step runs the decoded command: when it is the engine's move and the word in flight decodes to `i`, the step is the
meaning of `i` at that state (10_state.md R45, R47; 60_exceptions.md R208). That it is the engine's move when no input is
left is the model's schedule, a design choice: log 3; that `withFetchWord` stands for the acceptance of a `CMD` write, with
the engine to move next, is how a program comes to run: log 4. -/
def Obligations.StepRunsTheDecodedCommand : Prop :=
  (∀ (s : State) (n : Snapshot) (acc : BitVec 16) (i : Instr),
    s.inReset = false → s.engine = .busy n acc → decode n.cmd = .ok i →
    (s.inputs = [] → step s = exec i s) ∧
    (∀ rest, s.inputs = .engine :: rest → step s = exec i (s.setInputs rest))) ∧
  (∀ (s : State) (w : Nat) (i : Instr), decodeTableWord 32 w = some i →
    step (s.withFetchWord 32 w) =
      exec i (((acceptCommand (BitVec.ofNat 32 w) s).setInReset false).setInputs s.inputs))

/-- The engine's completion of an illegal word ends in `ILLEGAL_COMMAND` (code 3), with no effect on memory; the word
stays readable in `CMD` (60_exceptions.md R203; 30_encoding.md R88). -/
def Obligations.IllegalWordCompletesInError : Prop :=
  ∀ (s : State) (n : Snapshot) (acc : BitVec 16) (e : Illegal),
    s.inReset = false → s.engine = .busy n acc → decode n.cmd = .error e →
    ∃ t, engineMove s = .next t ∧ s.Failed 3 t ∧ readReg .cmd t = s.cmd ∧ (s.RegistersOk → readReg .cmd t = n.cmd)

/-- Every accepted command completes: with nothing else to do the next step ends it, in success or in error
(70 R250; 10_state.md R47). The one step is the model's schedule: log 3. -/
def Obligations.CommandInFlightCompletes : Prop :=
  ∀ s : State, s.inReset = false → s.busy = true → (s.inputs = [] ∨ ∃ rest, s.inputs = .engine :: rest) →
    ∃ t, step s = .next t ∧ t.busy = false ∧
      ((t.status.done = true ∧ t.status.errcode = 0) ∨ (t.status.err = true ∧ t.status.errcode ≠ 0))

/-- No step stops but for a rule the host must keep: no refusal, and no meaning without a command in flight
(93_implementation_defined.md: no behaviour of the block is stuck). -/
def Obligations.StepsStopOnlyForHostBreaches : Prop := ∀ s : State, goesOnOrHostBreach (step s)

/-- The invariant holds after reset. -/
def Obligations.InvariantHoldsAtReset : Prop := State.reset.Inv

/-- Every step keeps the invariant, from every state that meets it. -/
def Obligations.StepKeepsTheInvariant : Prop := ∀ s t : State, s.Inv → step s = .next t → t.Inv

/-! ## Completion, errors and frames (60_exceptions.md) -/

/-- An error is precise (R210): a completion, of an illegal word too, that sets `ERR` wrote no byte and no result
register, left `CMD` alone, recorded one of the seven codes and made the engine idle. -/
def Obligations.ErrorCompletionHasNoOutput : Prop :=
  ∀ s t : State, engineMove s = .next t → s.status.err = false → t.status.err = true →
    s.busy = true ∧ ∃ code, 1 ≤ code.toNat ∧ code.toNat ≤ 7 ∧ s.Failed code t

/-- The checks come in the order of R208, and the first that fails decides the code (R200 to R207). -/
def Obligations.ChecksFailInTheStatedOrder : Prop :=
  ∀ (s : State) (n : Snapshot) (acc : BitVec 16), s.engine = .busy n acc →
    (s.inReset = false → (∃ e, decode n.cmd = .error e) → ∃ t, engineMove s = .next t ∧ s.Failed 3 t) ∧
    (∀ (i : Instr) (mode : RotMode) (skip : Bool) (b : Nat), (i = .mono skip b ∨ i = .monopack mode skip b) →
      (100 ≤ b → b ≤ 127 → ∃ t, exec i s = .next t ∧ s.Failed 4 t) ∧
      (b ≤ 99 → n.ops.width.toNat = 0 ∨ n.ops.srcLen.toNat % (4 * n.ops.width.toNat) ≠ 0 →
        ∃ t, exec i s = .next t ∧ s.Failed 1 t) ∧
      (b ≤ 99 → n.ops.width.toNat ≠ 0 → n.ops.srcLen.toNat % (4 * n.ops.width.toNat) = 0 →
        (n.pixelRange.valid s.cfg = false → ∃ t, exec i s = .next t ∧ s.Failed 5 t) ∧
        (n.pixelRange.valid s.cfg = true → (outputRange i n s).valid s.cfg = false →
          ∃ t, exec i s = .next t ∧ s.Failed 6 t) ∧
        (n.pixelRange.valid s.cfg = true → (outputRange i n s).valid s.cfg = true →
          n.pixelRange.overlaps (outputRange i n s) = true → ∃ t, exec i s = .next t ∧ s.Failed 7 t))) ∧
    (∀ i : Instr, (i = .rotNone ∨ i = .rotCw ∨ i = .rotCcw ∨ i = .rot180) →
      (n.maskRange.valid s.cfg = false → ∃ t, exec i s = .next t ∧ s.Failed 5 t) ∧
      (n.maskRange.valid s.cfg = true → (outputRange i n s).valid s.cfg = false →
        ∃ t, exec i s = .next t ∧ s.Failed 6 t) ∧
      (n.maskRange.valid s.cfg = true → (outputRange i n s).valid s.cfg = true →
        n.maskRange.overlaps (outputRange i n s) = true → ∃ t, exec i s = .next t ∧ s.Failed 7 t)) ∧
    (∀ u : CodeUnit,
      ((n.stringRange u).valid s.cfg = false → ∃ t, exec (.crc u) s = .next t ∧ s.Failed 5 t) ∧
      ((n.stringRange u).valid s.cfg = true → (∃ c ∈ s.codeUnits n u, 255 < c) →
        ∃ t, exec (.crc u) s = .next t ∧ s.Failed 2 t))

/-- What `MONO`, the `ROT` commands and `MONOPACK` leave unchanged: everything but the flags, the image result registers
and, in memory, the bytes of the output range they compute (20_memory.md R72). -/
def Obligations.ImageCommandFrame : Prop :=
  ∀ (i : Instr) (s t : State) (n : Snapshot) (acc : BitVec 16),
    (∃ mode skip b, i = .mono skip b ∨ i = .rotNone ∨ i = .rotCw ∨ i = .rotCcw ∨ i = .rot180 ∨
      i = .monopack mode skip b) →
    s.engine = .busy n acc → exec i s = .next t →
    s.SameShell t ∧ t.engine = .idle ∧ t.crc = s.crc ∧
    (∀ a, ¬((outputRange i n s).base ≤ a ∧ a < (outputRange i n s).base + (outputRange i n s).len) →
      t.byteAt a = s.byteAt a)

/-- What `CRC` leaves unchanged: everything but the flags and the two CRC result registers; no byte is ever written
(42_checksum.md R165). -/
def Obligations.ChecksumFrame : Prop :=
  ∀ (u : CodeUnit) (s t : State), exec (.crc u) s = .next t →
    s.SameShell t ∧ t.engine = .idle ∧ t.image = s.image ∧ t.mem = s.mem ∧ (∀ a, t.byteAt a = s.byteAt a)

/-- A command uses only the snapshot: the live operand registers, `INT_EN` and what an earlier command left in the
accumulator or the result registers do not change its outcome (R45, R48; 42_checksum.md R163). -/
def Obligations.OutcomeIgnoresLiveRegistersAndOldResults : Prop :=
  ∀ (i : Instr) (s : State) (n : Snapshot) (acc acc' : BitVec 16) (ops : Operands) (ie : BitVec 3) (crc : CrcResults)
    (image : ImageResults),
    s.engine = .busy n acc →
    ∃ t t', exec i s = .next t ∧
      exec i (((((s.setEngine (.busy n acc')).setOps ops).setIntEn ie).setCrc crc).setImage image) = .next t' ∧
      t'.status = t.status ∧ t'.mem = t.mem ∧
      (t.status.err = false → ((∃ u, i = .crc u) → t'.crc = t.crc) ∧ ((∀ u, i ≠ .crc u) → t'.image = t.image))

/-! ## Monochromizer (40_monochromizer.md) -/

/-- A pixel is dark iff its blended gray is at or below the cutoff, over the rationals, with no rounding and no clamp
(R100, R101): the integer form of R102 is exact. -/
def Obligations.DarkIffGrayAtMostCutoff : Prop :=
  ∀ (q : Pixel) (p : Nat) (alpha gray cut : ℚ),
    alpha = (q.a.toNat : ℚ) / 255 → cut = 255 * (p : ℚ) / 100 →
    gray = ((q.r.toNat : ℚ) * (30 / 100) * alpha + 255 * (1 - alpha)) +
      ((q.g.toNat : ℚ) * (59 / 100) * alpha + 255 * (1 - alpha)) +
      ((q.b.toNat : ℚ) * (11 / 100) * alpha + 255 * (1 - alpha)) →
    0 ≤ gray ∧ gray ≤ 765 ∧ (dark p q = true ↔ gray ≤ cut)

/-- The consequences of the classification (R103). -/
def Obligations.ClassificationConsequences : Prop :=
  ∀ (q : Pixel) (p : Nat), 1 ≤ p → p ≤ 99 →
    (q.a = 0 → dark p q = false) ∧
    (q.a = 255 → (dark p q = true ↔ 30 * q.r.toNat + 59 * q.g.toNat + 11 * q.b.toNat ≤ 255 * p)) ∧
    (q = ⟨255, 255, 255, 255⟩ → dark p q = false) ∧ (q = ⟨0, 0, 0, 255⟩ → dark p q = true) ∧
    (q = ⟨0, 0, 0, q.a⟩ → q.a.toNat ≤ 170 → dark p q = false) ∧
    (q = ⟨0, 0, 0, 254⟩ → (dark p q = true ↔ 2 ≤ p)) ∧ (q = ⟨0, 0, 0, 171⟩ → p = 99 → dark p q = true)

/-- The crop box is the inclusive bounding box of the dark pixels (R105). -/
def Obligations.CropBoxIsTheBoundingBoxOfDarkPixels : Prop :=
  ∀ (W H : Nat) (isDark : Nat → Nat → Bool), (∃ x y, x < W ∧ y < H ∧ isDark x y = true) →
    ∃ x0 x1 y0 y1, x0 ≤ x1 ∧ x1 < W ∧ y0 ≤ y1 ∧ y1 < H ∧
      chooseBox false W H isDark = { x := x0, y := y0, w := x1 - x0 + 1, h := y1 - y0 + 1 } ∧
      (∀ x y, x < W → y < H → isDark x y = true → x0 ≤ x ∧ x ≤ x1 ∧ y0 ≤ y ∧ y ≤ y1) ∧
      (∃ y, y < H ∧ isDark x0 y = true) ∧ (∃ y, y < H ∧ isDark x1 y = true) ∧
      (∃ x, x < W ∧ isDark x y0 = true) ∧ (∃ x, x < W ∧ isDark x y1 = true)

/-- Without a dark pixel the crop box is (0, 0, 0, 0) (R106); with cropping skipped the box is the full image, whatever
the pixels (R107). -/
def Obligations.BoxWithoutDarkPixelsOrCropping : Prop :=
  ∀ (W H : Nat) (isDark : Nat → Nat → Bool),
    ((∀ x y, x < W → y < H → isDark x y = false) → chooseBox false W H isDark = { x := 0, y := 0, w := 0, h := 0 }) ∧
    chooseBox true W H isDark = { x := 0, y := 0, w := W, h := H }

/-- `MONO` completes: the classification of the box's pixels as mask bytes at `DST_ADDR`, and the box in the result
registers (R108, R110, R111). -/
def Obligations.MonoWritesTheCroppedMask : Prop :=
  ∀ (s : State) (n : Snapshot) (acc : BitVec 16) (skip : Bool) (black p W H : Nat) (box : Box),
    s.engine = .busy n acc → ((black = 0 ∧ p = 50) ∨ (1 ≤ black ∧ black ≤ 99 ∧ p = black)) →
    W = n.ops.width.toNat → 0 < W → n.ops.srcLen.toNat = 4 * W * H → n.pixelRange.valid s.cfg = true →
    box = chooseBox skip W H (s.darkAt n p) →
    ({ base := n.ops.dstAddr.toNat, len := box.w * box.h } : Range).valid s.cfg = true →
    n.pixelRange.overlaps { base := n.ops.dstAddr.toNat, len := box.w * box.h } = false →
    ∃ t, exec (.mono skip black) s = .next t ∧ s.Succeeded t ∧ t.crc = s.crc ∧
      t.ImageIs box.x box.y box.w box.h box.w box.h box.w ∧
      (∀ i j, i < box.w → j < box.h →
        t.byteAt (n.ops.dstAddr.toNat + j * box.w + i) =
          if s.darkAt n p (box.x + i) (box.y + j) then 0x01 else 0x00) ∧
      s.SameOutside t n.ops.dstAddr.toNat (box.w * box.h)

/-! ## Rotator (41_rotator.md) -/

/-- The packed layout (R130): MSB first, 8 pixels a byte, every row from a new byte, tails 0. -/
def Obligations.PackedBitsAreThePixels : Prop :=
  ∀ (w h : Nat) (pix : Nat → Nat → Bool),
    (pack w h pix).length = (w + 7) / 8 * h ∧
    ∀ r c, r < h → c < 8 * ((w + 7) / 8) →
      ∃ b, (pack w h pix)[r * ((w + 7) / 8) + c / 8]? = some b ∧
        b.getLsbD (7 - c % 8) = (decide (c < w) && pix c r)

/-- The source's scan that flushes every 8 pixels and at row end writes the same bytes (R131). -/
def Obligations.StreamingScanPacksTheSameBytes : Prop :=
  ∀ (w h : Nat) (pix : Nat → Nat → Bool), packStream w h pix = pack w h pix

/-- The laws of the rotator (R138): rotating a packed bitmap again agrees with rotating the mask; a half turn twice, +90°
and −90° in either order, four times +90°, and twice +90° with a half turn, are the identity. -/
def Obligations.RotationsOfPackedBitmapsCompose : Prop :=
  ∀ (w h : Nat) (m : Nat → Nat → Bool) (P : List Byte), P = pack w h m →
    (∀ mode, pack (rotW mode w h) (rotH mode w h) (rotPix mode w h m) = repack mode w h P) ∧
    repack .half w h (repack .half w h P) = P ∧
    repack .ccw h w (repack .cw w h P) = P ∧
    repack .cw h w (repack .ccw w h P) = P ∧
    repack .cw h w (repack .cw w h (repack .cw h w (repack .cw w h P))) = P ∧
    repack .half w h (repack .cw h w (repack .cw w h P)) = P

/-- Every pad bit is 0: the packed output has as many 1 bits as the mask has dark pixels, in every mode (R138). -/
def Obligations.PackedOnesCountTheDarkPixels : Prop :=
  ∀ (mode : RotMode) (w h : Nat) (m : Nat → Nat → Bool),
    ((pack (rotW mode w h) (rotH mode w h) (rotPix mode w h m)).map onesOf).sum =
      ((List.range (w * h)).filter fun k => m (k % w) (k / w)).length

/-- `ROT.NONE`, `ROT.180`, `ROT.CW` and `ROT.CCW` complete: the packed rotated mask at `DST_ADDR`, any nonzero mask byte
dark, and the sizes in the result registers (R132 to R137). -/
def Obligations.RotatePacksTheRotatedMask : Prop :=
  ∀ (s : State) (n : Snapshot) (acc : BitVec 16) (W H dst : Nat) (M : Nat → Nat → Bool),
    s.engine = .busy n acc → W = n.ops.width.toNat → H = n.ops.height.toNat → dst = n.ops.dstAddr.toNat →
    (∀ x y, M x y = decide (s.byteAt (n.ops.srcAddr.toNat + y * W + x) ≠ 0)) →
    n.maskRange.valid s.cfg = true →
    (({ base := dst, len := (W + 7) / 8 * H } : Range).valid s.cfg = true →
      n.maskRange.overlaps { base := dst, len := (W + 7) / 8 * H } = false →
      (∃ t, exec .rotNone s = .next t ∧ s.Succeeded t ∧ t.crc = s.crc ∧ t.ImageIs 0 0 W H W H ((W + 7) / 8) ∧
        t.PackedAt dst W H (fun c r => M c r) ∧ s.SameOutside t dst ((W + 7) / 8 * H)) ∧
      (∃ t, exec .rot180 s = .next t ∧ s.Succeeded t ∧ t.crc = s.crc ∧ t.ImageIs 0 0 W H W H ((W + 7) / 8) ∧
        t.PackedAt dst W H (fun c r => M (W - 1 - c) (H - 1 - r)) ∧ s.SameOutside t dst ((W + 7) / 8 * H))) ∧
    (({ base := dst, len := (H + 7) / 8 * W } : Range).valid s.cfg = true →
      n.maskRange.overlaps { base := dst, len := (H + 7) / 8 * W } = false →
      (∃ t, exec .rotCw s = .next t ∧ s.Succeeded t ∧ t.crc = s.crc ∧ t.ImageIs 0 0 W H H W ((H + 7) / 8) ∧
        t.PackedAt dst H W (fun c r => M r (H - 1 - c)) ∧ s.SameOutside t dst ((H + 7) / 8 * W)) ∧
      (∃ t, exec .rotCcw s = .next t ∧ s.Succeeded t ∧ t.crc = s.crc ∧ t.ImageIs 0 0 W H H W ((H + 7) / 8) ∧
        t.PackedAt dst H W (fun c r => M (W - 1 - r) c) ∧ s.SameOutside t dst ((H + 7) / 8 * W)))

/-! ## Fused pipeline (43_pipeline.md) -/

/-- `MONOPACK` completes: the cropped mask, rotated and packed, at `DST_ADDR`; crop origin, mask size and output size in
the result registers (R180). -/
def Obligations.MonopackPacksTheRotatedCrop : Prop :=
  ∀ (s : State) (n : Snapshot) (acc : BitVec 16) (mode : RotMode) (skip : Bool) (black p W H W' H' dst : Nat)
    (box : Box) (M pix : Nat → Nat → Bool),
    s.engine = .busy n acc → ((black = 0 ∧ p = 50) ∨ (1 ≤ black ∧ black ≤ 99 ∧ p = black)) →
    W = n.ops.width.toNat → 0 < W → n.ops.srcLen.toNat = 4 * W * H → n.pixelRange.valid s.cfg = true →
    box = chooseBox skip W H (s.darkAt n p) → dst = n.ops.dstAddr.toNat →
    (∀ i j, M i j = s.darkAt n p (box.x + i) (box.y + j)) →
    ((mode = .none ∧ W' = box.w ∧ H' = box.h ∧ ∀ c r, pix c r = M c r) ∨
     (mode = .cw ∧ W' = box.h ∧ H' = box.w ∧ ∀ c r, pix c r = M r (box.h - 1 - c)) ∨
     (mode = .ccw ∧ W' = box.h ∧ H' = box.w ∧ ∀ c r, pix c r = M (box.w - 1 - r) c) ∨
     (mode = .half ∧ W' = box.w ∧ H' = box.h ∧ ∀ c r, pix c r = M (box.w - 1 - c) (box.h - 1 - r))) →
    ({ base := dst, len := (W' + 7) / 8 * H' } : Range).valid s.cfg = true →
    n.pixelRange.overlaps { base := dst, len := (W' + 7) / 8 * H' } = false →
    ∃ t, exec (.monopack mode skip black) s = .next t ∧ s.Succeeded t ∧ t.crc = s.crc ∧
      t.ImageIs box.x box.y box.w box.h W' H' ((W' + 7) / 8) ∧ t.PackedAt dst W' H' pix ∧
      s.SameOutside t dst ((W' + 7) / 8 * H')

/-- `MONOPACK` equals `MONO` into a scratch range followed by `ROT.<mode>` from it, in the packed bytes and the output
registers, when no check fails (R182; 40_monochromizer.md R111). -/
def Obligations.MonopackEqualsMonoThenRotate : Prop :=
  ∀ (s t t1 t2 : State) (n : Snapshot) (acc acc1 acc2 : BitVec 16) (mode : RotMode) (skip : Bool) (black : Nat)
    (scratch cmd1 cmd2 : Word),
    s.engine = .busy n acc → s.status.err = false →
    exec (.monopack mode skip black) s = .next t → t.status.err = false →
    exec (.mono skip black) (s.setEngine (.busy { cmd := cmd1, ops := { n.ops with dstAddr := scratch } } acc1)) =
      .next t1 → t1.status.err = false →
    exec (.ofRot mode) (t1.setEngine (.busy
      { cmd := cmd2,
        ops := { srcAddr := scratch, srcLen := 0, dstAddr := n.ops.dstAddr, width := t1.image.maskW,
                 height := t1.image.maskH } } acc2)) = .next t2 → t2.status.err = false →
    t2.image.outW = t.image.outW ∧ t2.image.outH = t.image.outH ∧ t2.image.outStride = t.image.outStride ∧
    t2.image.outLen = t.image.outLen ∧ t2.image.maskW = t.image.maskW ∧ t2.image.maskH = t.image.maskH ∧
    t2.image.boxX = 0 ∧ t2.image.boxY = 0 ∧
    (∀ k, k < t.image.outLen.toNat → t2.byteAt (n.ops.dstAddr.toNat + k) = t.byteAt (n.ops.dstAddr.toNat + k))

/-- A host access that keeps the hazard rule does not change a command's outcome: the code, the result registers and the
output bytes are those it would have had without the access (70 R251; 20_memory.md R73). Which accesses keep the rule
rests on the ranges the model computes: log 7. -/
def Obligations.AllowedHostAccessDoesNotChangeTheOutcome : Prop :=
  ∀ (s s' : State) (n : Snapshot) (acc : BitVec 16) (i : Instr) (addr : Nat) (size : Size) (v : Word),
    s.FlagsOk → s.engine = .busy n acc → decode n.cmd = .ok i →
    (inputMove (.read addr size) s = .next s' ∨ inputMove (.write addr size v) s = .next s') →
    ∃ t t', exec i s = .next t ∧ exec i s' = .next t' ∧ t'.status.done = t.status.done ∧
      t'.status.err = t.status.err ∧ t'.status.errcode = t.status.errcode ∧ t'.image = t.image ∧ t'.crc = t.crc ∧
      (∀ a, (outputRange i n s).contains a = true → t'.byteAt a = t.byteAt a)

/-! ## Checksum (42_checksum.md) -/

/-- The table is the one the polynomial 0x1021 defines (R161). -/
def Obligations.TableIsThePolynomialsTable : Prop :=
  crcTable.length = 256 ∧ ∀ i, i < 256 → crcEntry i = crcStep8 (BitVec.ofNat 16 i <<< (8 : Nat))

/-- The table form and the bit-serial form compute the same value (R162). -/
def Obligations.TableFormEqualsBitSerialForm : Prop :=
  ∀ units : List Byte, crc16 (units.map BitVec.toNat) = .ok (crcSerial units)

/-- The hex rendering (R164): the four digits of the value, most significant first from the low byte up, each the
character of `0123456789abcdef` at the digit's place. -/
def Obligations.HexRenderingIsFourLowercaseDigits : Prop :=
  ∀ (crc : BitVec 16) (k : Nat), k < 4 →
    ∃ ch, "0123456789abcdef".toList[crc.toNat / 16 ^ (3 - k) % 16]? = some ch ∧
      ((hex4 crc).extractLsb' (8 * k) 8).toNat = ch.toNat

/-- `CRC` completes: the CRC of its code units, one byte or two bytes little-endian each, from the seed 0, and its
rendering, in the result registers (R160, R165, R166). -/
def Obligations.ChecksumOfTheCodeUnits : Prop :=
  ∀ (s : State) (n : Snapshot) (acc : BitVec 16) (u : CodeUnit) (units : List Nat),
    s.engine = .busy n acc →
    units = (List.range n.ops.srcLen.toNat).map (fun k =>
      match u with
      | .b8 => (s.byteAt (n.ops.srcAddr.toNat + k)).toNat
      | .u16 => (s.byteAt (n.ops.srcAddr.toNat + 2 * k)).toNat + 256 * (s.byteAt (n.ops.srcAddr.toNat + 2 * k + 1)).toNat) →
    (n.stringRange u).valid s.cfg = true → (∀ c ∈ units, c ≤ 255) →
    ∃ t, exec (.crc u) s = .next t ∧ s.Succeeded t ∧ t.image = s.image ∧ t.mem = s.mem ∧
      t.crc.val = units.foldl (fun (crc : BitVec 16) (c : Nat) => (crc <<< (8 : Nat)) ^^^ crcEntry ((crc.toNat / 256) ^^^ c)) 0 ∧
      t.crc.hex = hex4 t.crc.val
end

