-- ==== Sys2Proof/Laws/State.lean ====
section
/-! SUPPORT. One lemma per field per update of the state, so that no proof unfolds a record update; and what the reads
that look only at memory see of an update. -/

namespace Sys2Proof.Machine

section
variable (s : State) (v : Status)
@[simp] theorem State.setStatus_cfg : (s.setStatus v).cfg = s.cfg := rfl
@[simp] theorem State.setStatus_status : (s.setStatus v).status = v := rfl
@[simp] theorem State.setStatus_cmd : (s.setStatus v).cmd = s.cmd := rfl
@[simp] theorem State.setStatus_intEn : (s.setStatus v).intEn = s.intEn := rfl
@[simp] theorem State.setStatus_ops : (s.setStatus v).ops = s.ops := rfl
@[simp] theorem State.setStatus_image : (s.setStatus v).image = s.image := rfl
@[simp] theorem State.setStatus_crc : (s.setStatus v).crc = s.crc := rfl
@[simp] theorem State.setStatus_engine : (s.setStatus v).engine = s.engine := rfl
@[simp] theorem State.setStatus_mem : (s.setStatus v).mem = s.mem := rfl
@[simp] theorem State.setStatus_inReset : (s.setStatus v).inReset = s.inReset := rfl
@[simp] theorem State.setStatus_inputs : (s.setStatus v).inputs = s.inputs := rfl
@[simp] theorem State.setStatus_response : (s.setStatus v).response = s.response := rfl
@[simp] theorem State.setStatus_powerUp : (s.setStatus v).powerUp = s.powerUp := rfl
@[simp] theorem State.setStatus_draws : (s.setStatus v).draws = s.draws := rfl
@[simp] theorem State.setStatus_byteAt (a : Nat) : (s.setStatus v).byteAt a = s.byteAt a := rfl
@[simp] theorem State.setStatus_busy : (s.setStatus v).busy = s.busy := rfl
end

section
variable (s : State) (v : Word)
@[simp] theorem State.setCmd_cfg : (s.setCmd v).cfg = s.cfg := rfl
@[simp] theorem State.setCmd_status : (s.setCmd v).status = s.status := rfl
@[simp] theorem State.setCmd_cmd : (s.setCmd v).cmd = v := rfl
@[simp] theorem State.setCmd_intEn : (s.setCmd v).intEn = s.intEn := rfl
@[simp] theorem State.setCmd_ops : (s.setCmd v).ops = s.ops := rfl
@[simp] theorem State.setCmd_image : (s.setCmd v).image = s.image := rfl
@[simp] theorem State.setCmd_crc : (s.setCmd v).crc = s.crc := rfl
@[simp] theorem State.setCmd_engine : (s.setCmd v).engine = s.engine := rfl
@[simp] theorem State.setCmd_mem : (s.setCmd v).mem = s.mem := rfl
@[simp] theorem State.setCmd_inReset : (s.setCmd v).inReset = s.inReset := rfl
@[simp] theorem State.setCmd_inputs : (s.setCmd v).inputs = s.inputs := rfl
@[simp] theorem State.setCmd_response : (s.setCmd v).response = s.response := rfl
@[simp] theorem State.setCmd_powerUp : (s.setCmd v).powerUp = s.powerUp := rfl
@[simp] theorem State.setCmd_draws : (s.setCmd v).draws = s.draws := rfl
@[simp] theorem State.setCmd_byteAt (a : Nat) : (s.setCmd v).byteAt a = s.byteAt a := rfl
@[simp] theorem State.setCmd_busy : (s.setCmd v).busy = s.busy := rfl
end

section
variable (s : State) (v : BitVec 3)
@[simp] theorem State.setIntEn_cfg : (s.setIntEn v).cfg = s.cfg := rfl
@[simp] theorem State.setIntEn_status : (s.setIntEn v).status = s.status := rfl
@[simp] theorem State.setIntEn_cmd : (s.setIntEn v).cmd = s.cmd := rfl
@[simp] theorem State.setIntEn_intEn : (s.setIntEn v).intEn = v := rfl
@[simp] theorem State.setIntEn_ops : (s.setIntEn v).ops = s.ops := rfl
@[simp] theorem State.setIntEn_image : (s.setIntEn v).image = s.image := rfl
@[simp] theorem State.setIntEn_crc : (s.setIntEn v).crc = s.crc := rfl
@[simp] theorem State.setIntEn_engine : (s.setIntEn v).engine = s.engine := rfl
@[simp] theorem State.setIntEn_mem : (s.setIntEn v).mem = s.mem := rfl
@[simp] theorem State.setIntEn_inReset : (s.setIntEn v).inReset = s.inReset := rfl
@[simp] theorem State.setIntEn_inputs : (s.setIntEn v).inputs = s.inputs := rfl
@[simp] theorem State.setIntEn_response : (s.setIntEn v).response = s.response := rfl
@[simp] theorem State.setIntEn_powerUp : (s.setIntEn v).powerUp = s.powerUp := rfl
@[simp] theorem State.setIntEn_draws : (s.setIntEn v).draws = s.draws := rfl
@[simp] theorem State.setIntEn_byteAt (a : Nat) : (s.setIntEn v).byteAt a = s.byteAt a := rfl
@[simp] theorem State.setIntEn_busy : (s.setIntEn v).busy = s.busy := rfl
end

section
variable (s : State) (v : Operands)
@[simp] theorem State.setOps_cfg : (s.setOps v).cfg = s.cfg := rfl
@[simp] theorem State.setOps_status : (s.setOps v).status = s.status := rfl
@[simp] theorem State.setOps_cmd : (s.setOps v).cmd = s.cmd := rfl
@[simp] theorem State.setOps_intEn : (s.setOps v).intEn = s.intEn := rfl
@[simp] theorem State.setOps_ops : (s.setOps v).ops = v := rfl
@[simp] theorem State.setOps_image : (s.setOps v).image = s.image := rfl
@[simp] theorem State.setOps_crc : (s.setOps v).crc = s.crc := rfl
@[simp] theorem State.setOps_engine : (s.setOps v).engine = s.engine := rfl
@[simp] theorem State.setOps_mem : (s.setOps v).mem = s.mem := rfl
@[simp] theorem State.setOps_inReset : (s.setOps v).inReset = s.inReset := rfl
@[simp] theorem State.setOps_inputs : (s.setOps v).inputs = s.inputs := rfl
@[simp] theorem State.setOps_response : (s.setOps v).response = s.response := rfl
@[simp] theorem State.setOps_powerUp : (s.setOps v).powerUp = s.powerUp := rfl
@[simp] theorem State.setOps_draws : (s.setOps v).draws = s.draws := rfl
@[simp] theorem State.setOps_byteAt (a : Nat) : (s.setOps v).byteAt a = s.byteAt a := rfl
@[simp] theorem State.setOps_busy : (s.setOps v).busy = s.busy := rfl
end

section
variable (s : State) (v : ImageResults)
@[simp] theorem State.setImage_cfg : (s.setImage v).cfg = s.cfg := rfl
@[simp] theorem State.setImage_status : (s.setImage v).status = s.status := rfl
@[simp] theorem State.setImage_cmd : (s.setImage v).cmd = s.cmd := rfl
@[simp] theorem State.setImage_intEn : (s.setImage v).intEn = s.intEn := rfl
@[simp] theorem State.setImage_ops : (s.setImage v).ops = s.ops := rfl
@[simp] theorem State.setImage_image : (s.setImage v).image = v := rfl
@[simp] theorem State.setImage_crc : (s.setImage v).crc = s.crc := rfl
@[simp] theorem State.setImage_engine : (s.setImage v).engine = s.engine := rfl
@[simp] theorem State.setImage_mem : (s.setImage v).mem = s.mem := rfl
@[simp] theorem State.setImage_inReset : (s.setImage v).inReset = s.inReset := rfl
@[simp] theorem State.setImage_inputs : (s.setImage v).inputs = s.inputs := rfl
@[simp] theorem State.setImage_response : (s.setImage v).response = s.response := rfl
@[simp] theorem State.setImage_powerUp : (s.setImage v).powerUp = s.powerUp := rfl
@[simp] theorem State.setImage_draws : (s.setImage v).draws = s.draws := rfl
@[simp] theorem State.setImage_byteAt (a : Nat) : (s.setImage v).byteAt a = s.byteAt a := rfl
@[simp] theorem State.setImage_busy : (s.setImage v).busy = s.busy := rfl
end

section
variable (s : State) (v : CrcResults)
@[simp] theorem State.setCrc_cfg : (s.setCrc v).cfg = s.cfg := rfl
@[simp] theorem State.setCrc_status : (s.setCrc v).status = s.status := rfl
@[simp] theorem State.setCrc_cmd : (s.setCrc v).cmd = s.cmd := rfl
@[simp] theorem State.setCrc_intEn : (s.setCrc v).intEn = s.intEn := rfl
@[simp] theorem State.setCrc_ops : (s.setCrc v).ops = s.ops := rfl
@[simp] theorem State.setCrc_image : (s.setCrc v).image = s.image := rfl
@[simp] theorem State.setCrc_crc : (s.setCrc v).crc = v := rfl
@[simp] theorem State.setCrc_engine : (s.setCrc v).engine = s.engine := rfl
@[simp] theorem State.setCrc_mem : (s.setCrc v).mem = s.mem := rfl
@[simp] theorem State.setCrc_inReset : (s.setCrc v).inReset = s.inReset := rfl
@[simp] theorem State.setCrc_inputs : (s.setCrc v).inputs = s.inputs := rfl
@[simp] theorem State.setCrc_response : (s.setCrc v).response = s.response := rfl
@[simp] theorem State.setCrc_powerUp : (s.setCrc v).powerUp = s.powerUp := rfl
@[simp] theorem State.setCrc_draws : (s.setCrc v).draws = s.draws := rfl
@[simp] theorem State.setCrc_byteAt (a : Nat) : (s.setCrc v).byteAt a = s.byteAt a := rfl
@[simp] theorem State.setCrc_busy : (s.setCrc v).busy = s.busy := rfl
end

section
variable (s : State) (v : Engine)
@[simp] theorem State.setEngine_cfg : (s.setEngine v).cfg = s.cfg := rfl
@[simp] theorem State.setEngine_status : (s.setEngine v).status = s.status := rfl
@[simp] theorem State.setEngine_cmd : (s.setEngine v).cmd = s.cmd := rfl
@[simp] theorem State.setEngine_intEn : (s.setEngine v).intEn = s.intEn := rfl
@[simp] theorem State.setEngine_ops : (s.setEngine v).ops = s.ops := rfl
@[simp] theorem State.setEngine_image : (s.setEngine v).image = s.image := rfl
@[simp] theorem State.setEngine_crc : (s.setEngine v).crc = s.crc := rfl
@[simp] theorem State.setEngine_engine : (s.setEngine v).engine = v := rfl
@[simp] theorem State.setEngine_mem : (s.setEngine v).mem = s.mem := rfl
@[simp] theorem State.setEngine_inReset : (s.setEngine v).inReset = s.inReset := rfl
@[simp] theorem State.setEngine_inputs : (s.setEngine v).inputs = s.inputs := rfl
@[simp] theorem State.setEngine_response : (s.setEngine v).response = s.response := rfl
@[simp] theorem State.setEngine_powerUp : (s.setEngine v).powerUp = s.powerUp := rfl
@[simp] theorem State.setEngine_draws : (s.setEngine v).draws = s.draws := rfl
@[simp] theorem State.setEngine_byteAt (a : Nat) : (s.setEngine v).byteAt a = s.byteAt a := rfl
end

section
variable (s : State) (v : Memory)
@[simp] theorem State.setMem_cfg : (s.setMem v).cfg = s.cfg := rfl
@[simp] theorem State.setMem_status : (s.setMem v).status = s.status := rfl
@[simp] theorem State.setMem_cmd : (s.setMem v).cmd = s.cmd := rfl
@[simp] theorem State.setMem_intEn : (s.setMem v).intEn = s.intEn := rfl
@[simp] theorem State.setMem_ops : (s.setMem v).ops = s.ops := rfl
@[simp] theorem State.setMem_image : (s.setMem v).image = s.image := rfl
@[simp] theorem State.setMem_crc : (s.setMem v).crc = s.crc := rfl
@[simp] theorem State.setMem_engine : (s.setMem v).engine = s.engine := rfl
@[simp] theorem State.setMem_mem : (s.setMem v).mem = v := rfl
@[simp] theorem State.setMem_inReset : (s.setMem v).inReset = s.inReset := rfl
@[simp] theorem State.setMem_inputs : (s.setMem v).inputs = s.inputs := rfl
@[simp] theorem State.setMem_response : (s.setMem v).response = s.response := rfl
@[simp] theorem State.setMem_powerUp : (s.setMem v).powerUp = s.powerUp := rfl
@[simp] theorem State.setMem_draws : (s.setMem v).draws = s.draws := rfl
@[simp] theorem State.setMem_busy : (s.setMem v).busy = s.busy := rfl
end

section
variable (s : State) (v : Bool)
@[simp] theorem State.setInReset_cfg : (s.setInReset v).cfg = s.cfg := rfl
@[simp] theorem State.setInReset_status : (s.setInReset v).status = s.status := rfl
@[simp] theorem State.setInReset_cmd : (s.setInReset v).cmd = s.cmd := rfl
@[simp] theorem State.setInReset_intEn : (s.setInReset v).intEn = s.intEn := rfl
@[simp] theorem State.setInReset_ops : (s.setInReset v).ops = s.ops := rfl
@[simp] theorem State.setInReset_image : (s.setInReset v).image = s.image := rfl
@[simp] theorem State.setInReset_crc : (s.setInReset v).crc = s.crc := rfl
@[simp] theorem State.setInReset_engine : (s.setInReset v).engine = s.engine := rfl
@[simp] theorem State.setInReset_mem : (s.setInReset v).mem = s.mem := rfl
@[simp] theorem State.setInReset_inReset : (s.setInReset v).inReset = v := rfl
@[simp] theorem State.setInReset_inputs : (s.setInReset v).inputs = s.inputs := rfl
@[simp] theorem State.setInReset_response : (s.setInReset v).response = s.response := rfl
@[simp] theorem State.setInReset_powerUp : (s.setInReset v).powerUp = s.powerUp := rfl
@[simp] theorem State.setInReset_draws : (s.setInReset v).draws = s.draws := rfl
@[simp] theorem State.setInReset_byteAt (a : Nat) : (s.setInReset v).byteAt a = s.byteAt a := rfl
@[simp] theorem State.setInReset_busy : (s.setInReset v).busy = s.busy := rfl
end

section
variable (s : State) (v : List Input)
@[simp] theorem State.setInputs_cfg : (s.setInputs v).cfg = s.cfg := rfl
@[simp] theorem State.setInputs_status : (s.setInputs v).status = s.status := rfl
@[simp] theorem State.setInputs_cmd : (s.setInputs v).cmd = s.cmd := rfl
@[simp] theorem State.setInputs_intEn : (s.setInputs v).intEn = s.intEn := rfl
@[simp] theorem State.setInputs_ops : (s.setInputs v).ops = s.ops := rfl
@[simp] theorem State.setInputs_image : (s.setInputs v).image = s.image := rfl
@[simp] theorem State.setInputs_crc : (s.setInputs v).crc = s.crc := rfl
@[simp] theorem State.setInputs_engine : (s.setInputs v).engine = s.engine := rfl
@[simp] theorem State.setInputs_mem : (s.setInputs v).mem = s.mem := rfl
@[simp] theorem State.setInputs_inReset : (s.setInputs v).inReset = s.inReset := rfl
@[simp] theorem State.setInputs_inputs : (s.setInputs v).inputs = v := rfl
@[simp] theorem State.setInputs_response : (s.setInputs v).response = s.response := rfl
@[simp] theorem State.setInputs_powerUp : (s.setInputs v).powerUp = s.powerUp := rfl
@[simp] theorem State.setInputs_draws : (s.setInputs v).draws = s.draws := rfl
@[simp] theorem State.setInputs_byteAt (a : Nat) : (s.setInputs v).byteAt a = s.byteAt a := rfl
@[simp] theorem State.setInputs_busy : (s.setInputs v).busy = s.busy := rfl
end

section
variable (s : State) (v : Response)
@[simp] theorem State.setResponse_cfg : (s.setResponse v).cfg = s.cfg := rfl
@[simp] theorem State.setResponse_status : (s.setResponse v).status = s.status := rfl
@[simp] theorem State.setResponse_cmd : (s.setResponse v).cmd = s.cmd := rfl
@[simp] theorem State.setResponse_intEn : (s.setResponse v).intEn = s.intEn := rfl
@[simp] theorem State.setResponse_ops : (s.setResponse v).ops = s.ops := rfl
@[simp] theorem State.setResponse_image : (s.setResponse v).image = s.image := rfl
@[simp] theorem State.setResponse_crc : (s.setResponse v).crc = s.crc := rfl
@[simp] theorem State.setResponse_engine : (s.setResponse v).engine = s.engine := rfl
@[simp] theorem State.setResponse_mem : (s.setResponse v).mem = s.mem := rfl
@[simp] theorem State.setResponse_inReset : (s.setResponse v).inReset = s.inReset := rfl
@[simp] theorem State.setResponse_inputs : (s.setResponse v).inputs = s.inputs := rfl
@[simp] theorem State.setResponse_response : (s.setResponse v).response = v := rfl
@[simp] theorem State.setResponse_powerUp : (s.setResponse v).powerUp = s.powerUp := rfl
@[simp] theorem State.setResponse_draws : (s.setResponse v).draws = s.draws := rfl
@[simp] theorem State.setResponse_byteAt (a : Nat) : (s.setResponse v).byteAt a = s.byteAt a := rfl
@[simp] theorem State.setResponse_busy : (s.setResponse v).busy = s.busy := rfl
end

section
variable (s : State) (v : Nat)
@[simp] theorem State.setDraws_cfg : (s.setDraws v).cfg = s.cfg := rfl
@[simp] theorem State.setDraws_status : (s.setDraws v).status = s.status := rfl
@[simp] theorem State.setDraws_cmd : (s.setDraws v).cmd = s.cmd := rfl
@[simp] theorem State.setDraws_intEn : (s.setDraws v).intEn = s.intEn := rfl
@[simp] theorem State.setDraws_ops : (s.setDraws v).ops = s.ops := rfl
@[simp] theorem State.setDraws_image : (s.setDraws v).image = s.image := rfl
@[simp] theorem State.setDraws_crc : (s.setDraws v).crc = s.crc := rfl
@[simp] theorem State.setDraws_engine : (s.setDraws v).engine = s.engine := rfl
@[simp] theorem State.setDraws_mem : (s.setDraws v).mem = s.mem := rfl
@[simp] theorem State.setDraws_inReset : (s.setDraws v).inReset = s.inReset := rfl
@[simp] theorem State.setDraws_inputs : (s.setDraws v).inputs = s.inputs := rfl
@[simp] theorem State.setDraws_response : (s.setDraws v).response = s.response := rfl
@[simp] theorem State.setDraws_powerUp : (s.setDraws v).powerUp = s.powerUp := rfl
@[simp] theorem State.setDraws_draws : (s.setDraws v).draws = v := rfl
@[simp] theorem State.setDraws_byteAt (a : Nat) : (s.setDraws v).byteAt a = s.byteAt a := rfl
@[simp] theorem State.setDraws_busy : (s.setDraws v).busy = s.busy := rfl
end

@[simp] theorem State.setEngine_busy_idle (s : State) : (s.setEngine .idle).busy = false := rfl

@[simp] theorem State.setEngine_busy_busy (s : State) (n : Snapshot) (acc : BitVec 16) :
    (s.setEngine (.busy n acc)).busy = true := rfl

/-- The engine is busy exactly when it holds a snapshot. -/
theorem State.busy_iff (s : State) : s.busy = true ↔ ∃ n acc, s.engine = .busy n acc := by
  unfold State.busy
  split <;> simp_all

/-- A byte is a function of the memory and of the power-up alone. -/
theorem State.byteAt_congr {s t : State} (hm : t.mem = s.mem) (hp : t.powerUp = s.powerUp) (a : Nat) :
    t.byteAt a = s.byteAt a := by
  simp [State.byteAt, hm, hp]

end Sys2Proof.Machine
end

