-- ==== Sys2Proof/Laws/Commands.lean ====
section
/-! SUPPORT. What each shared operation can do, said once: ranges, completion, the end of an image command, and the moves
of a step. -/

namespace Sys2Proof.Machine

/-! ## Ranges -/

theorem Range.valid_iff (r : Range) (cfg : Config) : r.valid cfg = true ↔ r.len = 0 ∨ r.base + r.len ≤ cfg.memBytes := by
  simp [Range.valid]

theorem Range.contains_iff (r : Range) (a : Nat) : r.contains a = true ↔ r.base ≤ a ∧ a < r.base + r.len := by
  simp [Range.contains]

theorem memBytes_le (cfg : Config) : cfg.memBytes ≤ 2 ^ 31 := by
  have := cfg.memLast.isLt
  simp only [Config.memBytes]
  omega

/-- A valid range is at most 2^31 bytes long, so its length fits in a register. -/
theorem Range.valid_len_le {r : Range} {cfg : Config} (h : r.valid cfg = true) : r.len ≤ 2 ^ 31 := by
  have := memBytes_le cfg
  rcases (r.valid_iff cfg).mp h with h | h <;> omega

/-! ## Lengths of the outputs -/

@[simp] theorem pack_length (w h : Nat) (pix : Nat → Nat → Bool) : (pack w h pix).length = packStride w * h := by
  simp [pack]

@[simp] theorem maskBytes_length (w h : Nat) (m : Nat → Nat → Bool) : (maskBytes w h m).length = w * h := by
  simp [maskBytes]

theorem rotatePlan_bytes_length (mode : RotMode) (x0 y0 w h : Nat) (m : Nat → Nat → Bool) :
    (rotatePlan mode x0 y0 w h m).bytes.length = (rotatePlan mode x0 y0 w h m).len := by
  simp [rotatePlan, ImagePlan.len]

theorem maskPlan_bytes_length (box : Box) (isDark : Nat → Nat → Bool) :
    (maskPlan box isDark).bytes.length = (maskPlan box isDark).len := by
  simp [maskPlan, ImagePlan.len]

/-! ## Completion -/

/-- A meaning that answers a next state ran the command in flight on its snapshot. -/
theorem withCommand_next {s t : State} {f : Snapshot → State} (h : withCommand s f = .next t) :
    ∃ n acc, s.engine = .busy n acc ∧ t = f n := by
  unfold withCommand at h
  split at h
  · rename_i n acc he
    exact ⟨n, acc, he, by simpa using h.symm⟩
  · cases h

/-- With a command in flight a meaning always answers a next state. -/
theorem withCommand_busy {s : State} {n : Snapshot} {acc : BitVec 16} (h : s.engine = .busy n acc)
    (f : Snapshot → State) : withCommand s f = .next (f n) := by
  simp [withCommand, h]

/-- An image command ends in one of two ways: an error completion and nothing else, or a success whose output range is
valid and apart from the source. -/
theorem finishImage_cases (n : Snapshot) (src : Range) (plan : Except ErrorCode ImagePlan) (s : State) :
    (∃ c, finishImage n src plan s = raiseError c s) ∨
    (∃ p, plan = .ok p ∧
      ({ base := n.ops.dstAddr.toNat, len := p.len } : Range).valid s.cfg = true ∧
      src.overlaps { base := n.ops.dstAddr.toNat, len := p.len } = false ∧
      finishImage n src plan s = complete ((s.storeBytes n.ops.dstAddr.toNat p.bytes).setImage p.results)) := by
  unfold finishImage
  split
  · exact .inl ⟨_, rfl⟩
  · rename_i p
    simp only
    split
    · rename_i hv
      split
      · exact .inl ⟨_, rfl⟩
      · rename_i ho
        exact .inr ⟨p, rfl, hv, by simpa using ho, rfl⟩
    · exact .inl ⟨_, rfl⟩

@[simp] theorem raiseError_engine (c : ErrorCode) (s : State) : (raiseError c s).engine = .idle := rfl
@[simp] theorem raiseError_mem (c : ErrorCode) (s : State) : (raiseError c s).mem = s.mem := rfl
@[simp] theorem raiseError_byteAt (c : ErrorCode) (s : State) (a : Nat) : (raiseError c s).byteAt a = s.byteAt a := rfl
@[simp] theorem raiseError_cfg (c : ErrorCode) (s : State) : (raiseError c s).cfg = s.cfg := rfl
@[simp] theorem raiseError_status (c : ErrorCode) (s : State) :
    (raiseError c s).status = { s.status with errcode := c.code, err := true } := rfl
@[simp] theorem complete_engine (s : State) : (complete s).engine = .idle := rfl
@[simp] theorem complete_mem (s : State) : (complete s).mem = s.mem := rfl
@[simp] theorem complete_byteAt (s : State) (a : Nat) : (complete s).byteAt a = s.byteAt a := rfl
@[simp] theorem complete_cfg (s : State) : (complete s).cfg = s.cfg := rfl
@[simp] theorem complete_status (s : State) :
    (complete s).status = { s.status with errcode := 0, done := true } := rfl

/-! ## Meanings -/

theorem rotPlan_length {mode : RotMode} {n : Snapshot} {s : State} {p : ImagePlan} (h : rotPlan mode n s = .ok p) :
    p.bytes.length = p.len := by
  unfold rotPlan at h
  split at h
  · cases h
    exact rotatePlan_bytes_length _ _ _ _ _ _
  · cases h

theorem monoPlan_length {skip : Bool} {black : Nat} {n : Snapshot} {s : State} {p : ImagePlan}
    (h : monoPlan skip black n s = .ok p) : p.bytes.length = p.len := by
  unfold monoPlan at h
  cases hc : imageChecks black n s with
  | error c => rw [hc] at h; cases h
  | ok v =>
    rw [hc] at h
    cases h
    exact maskPlan_bytes_length _ _

theorem monopackPlan_length {mode : RotMode} {skip : Bool} {black : Nat} {n : Snapshot} {s : State} {p : ImagePlan}
    (h : monopackPlan mode skip black n s = .ok p) : p.bytes.length = p.len := by
  unfold monopackPlan at h
  cases hc : imageChecks black n s with
  | error c => rw [hc] at h; cases h
  | ok v =>
    rw [hc] at h
    cases h
    exact rotatePlan_bytes_length _ _ _ _ _ _

/-- A plan writes exactly as many bytes as its output range holds. -/
theorem plannedOutput_length {i : Instr} {n : Snapshot} {s : State} {p : ImagePlan}
    (h : plannedOutput i n s = some p) : p.bytes.length = p.len := by
  have ok : ∀ {x : Except ErrorCode ImagePlan}, x.toOption = some p → x = .ok p := fun {x} hx => by
    cases x with
    | error c => cases hx
    | ok q => cases hx; rfl
  cases i with
  | mono skip black => exact monoPlan_length (ok h)
  | rotNone => exact rotPlan_length (ok h)
  | rotCw => exact rotPlan_length (ok h)
  | rotCcw => exact rotPlan_length (ok h)
  | rot180 => exact rotPlan_length (ok h)
  | monopack mode skip black => exact monopackPlan_length (ok h)
  | crc u => cases h

/-- What a success of an image command leaves. -/
def imageSuccess (n : Snapshot) (p : ImagePlan) (s : State) : State :=
  complete ((s.storeBytes n.ops.dstAddr.toNat p.bytes).setImage p.results)

/-- An error completion, or the success of the plan `i` has. -/
theorem imageCommand_cases {i : Instr} {s t : State} {src : Snapshot → Range}
    {plan : Snapshot → Except ErrorCode ImagePlan} (hs : ∀ n, sourceRange i n = src n)
    (hp : ∀ n, plannedOutput i n s = (plan n).toOption)
    (h : withCommand s (fun n => finishImage n (src n) (plan n) s) = .next t) :
    ∃ n acc, s.engine = .busy n acc ∧
      ((∃ c, t = raiseError c s) ∨
       (∃ p, plannedOutput i n s = some p ∧ (outputRange i n s).valid s.cfg = true ∧
         (sourceRange i n).overlaps (outputRange i n s) = false ∧ t = imageSuccess n p s)) := by
  obtain ⟨n, acc, he, rfl⟩ := withCommand_next h
  refine ⟨n, acc, he, ?_⟩
  rcases finishImage_cases n (src n) (plan n) s with ⟨c, hc⟩ | ⟨p, hok, hv, ho, heq⟩
  · exact .inl ⟨c, hc⟩
  · have hpl : plannedOutput i n s = some p := by rw [hp, hok]; rfl
    refine .inr ⟨p, hpl, ?_, ?_, heq⟩
    · simpa [outputRange, hpl] using hv
    · simpa [outputRange, hpl, hs] using ho

/-- An error completion, or the success of `CRC`. -/
theorem crcCommand_cases {u : CodeUnit} {s t : State} (h : execCrc u s = .next t) :
    ∃ n acc, s.engine = .busy n acc ∧
      ((∃ c, t = raiseError c s) ∨
       (∃ sum, (n.stringRange u).valid s.cfg = true ∧ crc16 (s.codeUnits n u) = .ok sum ∧ t = finishCrc n sum s)) := by
  obtain ⟨n, acc, he, rfl⟩ := withCommand_next h
  refine ⟨n, acc, he, ?_⟩
  split
  · rename_i hv
    split
    · exact .inl ⟨_, rfl⟩
    · rename_i sum hs
      exact .inr ⟨sum, hv, hs, rfl⟩
  · exact .inl ⟨_, rfl⟩

/-- What a command's completion can be, said once: an error completion and nothing else; the success of an image command,
its output range valid and apart from its source; or the success of `CRC`. -/
theorem exec_cases {i : Instr} {s t : State} (h : exec i s = .next t) :
    ∃ n acc, s.engine = .busy n acc ∧
      ((∃ c, t = raiseError c s) ∨
       (∃ p, plannedOutput i n s = some p ∧ (outputRange i n s).valid s.cfg = true ∧
         (sourceRange i n).overlaps (outputRange i n s) = false ∧ t = imageSuccess n p s) ∨
       (∃ u sum, i = .crc u ∧ (n.stringRange u).valid s.cfg = true ∧ crc16 (s.codeUnits n u) = .ok sum ∧
         t = finishCrc n sum s)) := by
  cases i with
  | mono skip black =>
    obtain ⟨n, acc, he, hr⟩ := imageCommand_cases (i := .mono skip black) (fun _ => rfl) (fun _ => rfl) h
    exact ⟨n, acc, he, hr.imp_right .inl⟩
  | rotNone =>
    obtain ⟨n, acc, he, hr⟩ := imageCommand_cases (i := .rotNone) (fun _ => rfl) (fun _ => rfl) h
    exact ⟨n, acc, he, hr.imp_right .inl⟩
  | rotCw =>
    obtain ⟨n, acc, he, hr⟩ := imageCommand_cases (i := .rotCw) (fun _ => rfl) (fun _ => rfl) h
    exact ⟨n, acc, he, hr.imp_right .inl⟩
  | rotCcw =>
    obtain ⟨n, acc, he, hr⟩ := imageCommand_cases (i := .rotCcw) (fun _ => rfl) (fun _ => rfl) h
    exact ⟨n, acc, he, hr.imp_right .inl⟩
  | rot180 =>
    obtain ⟨n, acc, he, hr⟩ := imageCommand_cases (i := .rot180) (fun _ => rfl) (fun _ => rfl) h
    exact ⟨n, acc, he, hr.imp_right .inl⟩
  | monopack rot skip black =>
    obtain ⟨n, acc, he, hr⟩ := imageCommand_cases (i := .monopack rot skip black) (fun _ => rfl) (fun _ => rfl) h
    exact ⟨n, acc, he, hr.imp_right .inl⟩
  | crc u =>
    obtain ⟨n, acc, he, hr⟩ := crcCommand_cases h
    exact ⟨n, acc, he, hr.imp_right fun ⟨sum, hv, hs, ht⟩ => .inr ⟨u, sum, rfl, hv, hs, ht⟩⟩

/-- With a command in flight every meaning answers a next state. -/
theorem exec_busy {s : State} {n : Snapshot} {acc : BitVec 16} (h : s.engine = .busy n acc) (i : Instr) :
    ∃ t, exec i s = .next t := by
  cases i <;> exact ⟨_, withCommand_busy h _⟩

/-! ## Moves -/

/-- A step with no input left is the engine's move. -/
theorem nextMove_nil {s : State} (h : s.inputs = []) : nextMove s = engineMove s := by
  simp [nextMove, h]

/-- A step with an input left is that input's move. -/
theorem nextMove_cons {s : State} {input : Input} {rest : List Input} (h : s.inputs = input :: rest) :
    nextMove s = inputMove input (s.setInputs rest) := by
  simp [nextMove, h]

/-- The engine's move, when it is not held in reset, is nothing, an illegal command's error, or a command's meaning. -/
theorem engineMove_cases (s : State) :
    (engineMove s = .next s ∧ (s.inReset = true ∨ s.engine = .idle)) ∨
    (∃ n acc, s.inReset = false ∧ s.engine = .busy n acc ∧
      ((∃ e, decode n.cmd = .error e ∧ engineMove s = .next (raiseError .illegalCommand s)) ∨
       (∃ i, decode n.cmd = .ok i ∧ engineMove s = exec i s))) := by
  unfold engineMove
  split
  · rename_i h
    exact .inl ⟨rfl, .inl h⟩
  · rename_i h
    split
    · rename_i he
      exact .inl ⟨rfl, .inr he⟩
    · rename_i n acc he
      refine .inr ⟨n, acc, by simpa using h, he, ?_⟩
      unfold completeCommand
      split
      · rename_i i hd
        exact .inr ⟨i, hd, rfl⟩
      · rename_i e hd
        exact .inl ⟨e, hd, rfl⟩

end Sys2Proof.Machine
end

