-- ==== Sys2Proof/Laws/PerInstr.lean ====
section
/-! SUPPORT. Statements about every command as syntax, one lemma per constructor. -/

namespace Sys2Proof.Laws

/-! ## EncodesToRow: the word of a well-formed command matches the command's own row of the opcode map (30_encoding.md
R89). -/

/-- The word matches its row. -/
def EncodesToRow.Statement (i : Instr) : Prop := i.wellFormed = true → i.row.matchesWord (encode i) = true

/-- The fixed bits of a word whose free fields are `SKIP`, `BLACK` and `ROT`. -/
theorem commandWord_mono_row (skip : BitVec 1) (black : BitVec 7) :
    commandWord 0x1 0 skip 0 black &&& 0xFFFF80BF = 0x00000001 := by
  unfold commandWord
  revert skip black
  decide

theorem commandWord_monopack_row (rot : BitVec 2) (skip : BitVec 1) (black : BitVec 7) :
    commandWord 0x3 rot skip 0 black &&& 0xFFFF808F = 0x00000003 := by
  unfold commandWord
  revert rot skip black
  decide

theorem EncodesToRow.mono (skip : Bool) (black : Nat) : EncodesToRow.Statement (.mono skip black) := fun _ =>
  decide_eq_true (commandWord_mono_row (.ofBool skip) (.ofNat 7 black))

theorem EncodesToRow.rotNone : EncodesToRow.Statement .rotNone := fun _ => by decide
theorem EncodesToRow.rotCw : EncodesToRow.Statement .rotCw := fun _ => by decide
theorem EncodesToRow.rotCcw : EncodesToRow.Statement .rotCcw := fun _ => by decide
theorem EncodesToRow.rot180 : EncodesToRow.Statement .rot180 := fun _ => by decide

theorem EncodesToRow.monopack (rot : RotMode) (skip : Bool) (black : Nat) :
    EncodesToRow.Statement (.monopack rot skip black) := fun _ =>
  decide_eq_true (commandWord_monopack_row rot.field (.ofBool skip) (.ofNat 7 black))

theorem EncodesToRow.crc (unit : CodeUnit) : EncodesToRow.Statement (.crc unit) := fun _ => by
  cases unit <;> decide

end Sys2Proof.Laws
end

