-- ==== Sys2Proof/Tests/Slice0.lean ====
section
/-! SUPPORT. Small tests with results from the spec's own examples and vectors (95_test_vectors.md), and for every
statement with hypotheses a state and operands that meet them. -/

namespace Sys2Proof.Tests

open Sys2Proof.Machine

/-! ## Helpers -/

/-- A platform with 64 bytes of memory, registers at 0x100 and the window at 0x1000. -/
def tiny : Config := { memLast := 63, regPage := 1, bufBase := 0x1000, irqLine := 3 }

/-- Idle after reset on that platform. -/
def idle : State := { State.reset with cfg := tiny }

/-- Idle with these bytes at address 0 and these operands. -/
def loaded (bytes : List Byte) (ops : Operands) : State := (idle.storeBytes 0 bytes).setOps ops

/-- The command `i` just accepted. -/
def running (i : Instr) (bytes : List Byte) (ops : Operands) : State := acceptCommand (encode i) (loaded bytes ops)

/-- The snapshot of `running`. -/
def snapOf (i : Instr) (ops : Operands) : Snapshot := { cmd := encode i, ops := ops }

/-- The state of a next outcome. -/
def stateOf : Host.Outcome State Fault Refusal → Option State
  | .next t => some t
  | .fault _ => none
  | .refused _ => none

/-- Two opaque black pixels. -/
def blackBlack : List Byte := [0, 0, 0, 255, 0, 0, 0, 255]

/-- Opaque white, then opaque black. -/
def whiteBlack : List Byte := [255, 255, 255, 255, 0, 0, 0, 255]

/-- The mask `m1` of 95_test_vectors.md 2.3: 3 × 2. -/
def maskM1 : List Byte := [1, 0, 0, 1, 1, 0]

/-- A 2 × 1 image at 0, output at 8. -/
def ops21 : Operands := { srcAddr := 0, srcLen := 8, dstAddr := 8, width := 2, height := 0 }

/-- `m1` at 0, output at 8. -/
def opsM1 : Operands := { srcAddr := 0, srcLen := 0, dstAddr := 8, width := 3, height := 2 }

/-- `n` code units at 0. -/
def opsCrc (n : Word) : Operands := { srcAddr := 0, srcLen := n, dstAddr := 0, width := 0, height := 0 }

/-- `STATUS`, `OUT_LEN` and the first bytes at 8 after a step. -/
def outcome (k : Nat) (s : State) : Option (Word × Word × List Byte) :=
  (stateOf (step s)).map fun t => (t.statusWord, t.image.outLen, (List.range k).map fun j => t.byteAt (8 + j))

/-! ## Well-formedness: each check refuses an ill-formed term -/

theorem test_mono_black_128_is_ill_formed : (Instr.mono false 128).wellFormed = false := by decide
theorem test_monopack_black_128_is_ill_formed : (Instr.monopack .cw true 128).wellFormed = false := by decide
theorem test_mono_black_127_is_well_formed : (Instr.mono false 127).wellFormed = true := by decide

/-! ## Decoding: words written out from 30_encoding.md R80, R89 -/

theorem test_decode_mono : decode 0b00000000000000000_0110010_0_1_00_0001#32 = .ok (.mono true 50) := by decide
theorem test_decode_rot_none : decode 0b00000000000000000_0000000_0_0_00_0010#32 = .ok .rotNone := by decide
theorem test_decode_rot_cw : decode 0b00000000000000000_0000000_0_0_01_0010#32 = .ok .rotCw := by decide
theorem test_decode_rot_ccw : decode 0b00000000000000000_0000000_0_0_10_0010#32 = .ok .rotCcw := by decide
theorem test_decode_rot_180 : decode 0b00000000000000000_0000000_0_0_11_0010#32 = .ok .rot180 := by decide
theorem test_decode_monopack :
    decode 0b00000000000000000_1100011_0_0_10_0011#32 = .ok (.monopack .ccw false 99) := by decide
theorem test_decode_crc : decode 0b00000000000000000_0000000_1_0_00_0100#32 = .ok (.crc .u16) := by decide
theorem test_decode_table_word : decodeTableWord 32 0x00000013 = some (.monopack .cw false 0) := by decide
theorem test_decode_illegal_words : (decode 0x00000011, decode 0x00000083, decode 0xFFFFFFFF) =
    (.error .unusedField, .error .unusedField, .error .reservedBits) := by decide

/-! ## One step of each command: the examples of 95_test_vectors.md, at smaller addresses -/

/-- As V-ERR-11, with the colours in the other order. -/
theorem test_mono_nocrop : outcome 2 (running (.mono true 0) whiteBlack ops21) = some (0x002, 2, [0, 1]) := by
  decide +kernel
/-- Crop to the one dark pixel (R105). -/
theorem test_mono_crop : outcome 1 (running (.mono false 0) whiteBlack ops21) = some (0x002, 1, [1]) := by
  decide +kernel
/-- V-ROT-1. -/
theorem test_rot_none : outcome 2 (running .rotNone maskM1 opsM1) = some (0x002, 2, [0x80, 0xC0]) := by decide +kernel
/-- V-ROT-2. -/
theorem test_rot_180 : outcome 2 (running .rot180 maskM1 opsM1) = some (0x002, 2, [0x60, 0x20]) := by decide +kernel
/-- V-ROT-3. -/
theorem test_rot_cw : outcome 3 (running .rotCw maskM1 opsM1) = some (0x002, 3, [0xC0, 0x80, 0x00]) := by decide +kernel
/-- V-ROT-4. -/
theorem test_rot_ccw : outcome 3 (running .rotCcw maskM1 opsM1) = some (0x002, 3, [0x00, 0x40, 0xC0]) := by decide +kernel
/-- The 2 × 1 image, a quarter turn: two rows of one byte. -/
theorem test_monopack_cw :
    outcome 2 (running (.monopack .cw true 0) whiteBlack ops21) = some (0x002, 2, [0x00, 0x80]) := by decide +kernel
/-- V-CRC-2: "A". -/
theorem test_crc_of_A : (stateOf (step (running (.crc .b8) [0x41] (opsCrc 1)))).map (fun t => (t.crc.val, t.crc.hex)) =
    some (0x58E5, 0x35653835) := by decide +kernel
/-- V-CRC-10: units 0x0041, 0x0100. -/
theorem test_crc_invalid_character :
    (stateOf (step (running (.crc .u16) [0x41, 0x00, 0x00, 0x01] (opsCrc 2)))).map (fun t => (t.statusWord, t.crc)) =
      some (0x204, CrcResults.reset) := by decide +kernel
/-- V-CLS-13, V-CLS-14, V-CLS-17, V-CLS-18, V-CLS-19: ties and translucent blacks. -/
theorem test_classification :
    (dark 1 ⟨0, 0, 0, 254⟩, dark 2 ⟨0, 0, 0, 254⟩, dark 99 ⟨0, 0, 0, 171⟩, dark 99 ⟨0, 0, 0, 170⟩,
      dark 50 ⟨107, 130, 170, 255⟩) = (false, true, true, false, true) := by decide
/-- V-ROT-9: 9 columns make two bytes a row. -/
theorem test_pack_nine_columns : pack 9 1 (fun c _ => decide (c = 0)) = [0x80, 0x00] := by decide

/-! ## The shell -/

/-- V-STS-2: accepted, `STATUS` 0x001. -/
theorem test_command_write_is_accepted :
    (stateOf (step (idle.setInputs [.write 0x108 .b4 0x2]))).map (fun t => (t.statusWord, t.cmd, t.response)) =
      some (0x001, 0x2, .ack) := by decide +kernel
/-- V-STS-8: a `CMD` write while busy. -/
theorem test_command_write_is_dropped :
    (stateOf (step ((running .rotNone maskM1 opsM1).setInputs [.write 0x108 .b4 0x4]))).map
      (fun t => (t.statusWord, t.cmd)) = some (0x009, 0x2) := by decide +kernel
/-- V-STS-12: a 16-bit read of `STATUS`. -/
theorem test_narrow_read_is_a_bus_error :
    (stateOf (step (idle.setInputs [.read 0x104 .b2]))).map (fun t => (t.response, t.status)) =
      some (.busError, Status.reset) := by decide +kernel
/-- Little-endian window access (20_memory.md R63). -/
theorem test_window_write_is_little_endian :
    (stateOf (step (idle.setInputs [.write 0x1004 .b4 0x44332211]))).map (fun t => t.mem) =
      some [(4, 0x11), (5, 0x22), (6, 0x33), (7, 0x44)] := by decide +kernel
/-- The worked lines of 30_encoding.md R92. -/
theorem test_assemble :
    assemble "monopack.none black=50 nocrop".toList = some 0x3243 ∧ assemble "crc.u16".toList = some 0x84 := by decide

/-! ## States that meet the hypotheses of the statements, at boundary values -/

/-- DecodeOfEncodeIsTheCommand, EncodeOfDecodeIsTheWord, PrintedTextAssemblesToTheSameWord. -/
theorem witness_legal_word_and_text :
    (Instr.mono true 127).wellFormed = true ∧ decode 0x00007F41 = .ok (.mono true 127) ∧
    decode 0x00006373 = .ok (.monopack .half true 99) ∧
    disassemble 0x00006373 = some "monopack.180 black=99 nocrop".toList ∧
    (0x00006373#32).toNat / 256 % 128 = 99 ∧ decode 0xFFFFFFFF = .error .reservedBits := by decide

/-- DecodeFollowsTheFieldRules: reserved bits, each `OP` used and unused, and a nonzero unused field. -/
theorem witness_command_word_fields :
    (0x00008001#32).toNat / 32768 = 1 ∧
    [0x00007F41#32, 0x00000032#32, 0x00000033#32, 0x00000084#32, 0x00000000#32, 0x00000005#32].map
      (fun w => (w.toNat % 16, w.toNat / 16 % 4, w.toNat / 64 % 2, w.toNat / 128 % 2, w.toNat / 256 % 128)) =
      [(1, 0, 1, 0, 127), (2, 3, 0, 0, 0), (3, 3, 0, 0, 0), (4, 0, 0, 1, 0), (0, 0, 0, 0, 0), (5, 0, 0, 0, 0)] ∧
    (0x00000011#32).toNat / 16 % 4 ≠ 0 := by decide

/-- CommandIffWordMatchesItsRow: a word of a row, and one of none. -/
theorem witness_opcode_map :
    (0x00000041 &&& 0xFFFF80BF : Word) = 0x00000001 ∧ ∀ r ∈ opcodeMap, (0x00000000 : Word) &&& r.mask ≠ r.pattern := by
  decide

/-- ThresholdFieldIsReadAsStated: a command in flight; 100 and 127 are in the range. -/
theorem witness_threshold :
    (running (.mono false 100) blackBlack ops21).engine = .busy (snapOf (.mono false 100) ops21) 0 ∧
    (1 ≤ 1 ∧ 99 ≤ 99) ∧ 100 ≤ 127 := by decide

/-- RegisterReadAnswersAndChangesNothing: the last register, and the first and last reserved offsets. -/
theorem witness_register_read :
    idle.inReset = false ∧ target tiny 0x164 = .register (Reg.offset .crcHex) ∧ target tiny 0x124 = .register 0x024 ∧
    target tiny 0x1FC = .register 0x0FC ∧ (∀ r ∈ allRegs, r.offset ≠ 0x024 ∧ r.offset ≠ 0x0FC) ∧
    (idle.setInputs [.read 0x1FC .b4]).inputs = .read 0x1FC .b4 :: [] := by decide

/-- ReadOnlyAndReservedOffsetsIgnoreWrites: `ID`, the first reserved offset and the last one. -/
theorem witness_ignored_write :
    target tiny 0x100 = .register 0 ∧ target tiny 0x124 = .register 0x024 ∧ target tiny 0x1FC = .register 0x0FC ∧
    idle.inReset = false ∧ (idle.setInputs [.write 0x1FC .b4 7]).inputs = .write 0x1FC .b4 7 :: [] := by decide

/-- OperandAndEnableWritesTakeEffectAtOnce: each offset, on a busy engine. -/
theorem witness_operand_write :
    (running .rotNone maskM1 opsM1).inReset = false ∧
    [0x110, 0x114, 0x118, 0x11C, 0x120, 0x10C].map (target tiny) =
      [0x010, 0x014, 0x018, 0x01C, 0x020, 0x00C].map Target.register := by decide

/-- BadAccessGetsBusErrorAndNoEffect: narrow, misaligned, misaligned in the window, and past its end. -/
theorem witness_bad_access :
    idle.inReset = false ∧ target tiny 0x104 = .register 4 ∧ Size.b1 ≠ .b4 ∧ target tiny 0x106 = .register 6 ∧
    6 % 4 ≠ 0 ∧ target tiny 0x1001 = .buffer 1 ∧ 1 % Size.b2.bytes ≠ 0 ∧ target tiny 0x1040 = .buffer 64 ∧
    tiny.memBytes < 64 + Size.b1.bytes := by decide

/-- WindowWriteThenReadIsLittleEndian: the last word of the memory. -/
theorem witness_window_write :
    idle.inReset = false ∧ idle.engine = .idle ∧ target tiny 0x103C = .buffer 60 ∧ target tiny 0x103C ≠ .nowhere ∧
    60 % Size.b4.bytes = 0 ∧ 60 + Size.b4.bytes ≤ tiny.memBytes := by decide

/-- StatusWriteClearsExactlyTheWrittenBits, CommandWriteWhileIdleIsAccepted, CommandWriteWhileBusyIsDropped. -/
theorem witness_status_and_command_write :
    idle.inReset = false ∧ idle.engine = .idle ∧ target tiny 0x104 = .register 0x004 ∧
    target tiny 0x108 = .register 0x008 ∧ (running .rotNone maskM1 opsM1).busy = true ∧
    (running .rotNone maskM1 opsM1).inReset = false := by decide

/-- OverrunIsSetAndClearedOnlyAsStated: set while busy, then cleared by a write of bit 3. -/
theorem witness_overrun :
    (∃ t, step ((running .rotNone maskM1 opsM1).setInputs [.write 0x108 .b4 0]) = .next t ∧ t.status.ovr = true) ∧
    (∃ t, step ((dropCommand idle).setInputs [.write 0x104 .b4 8]) = .next t ∧ (dropCommand idle).status.ovr = true ∧
      t.status.ovr = false) := by
  refine ⟨⟨_, rfl, by decide +kernel⟩, ⟨_, rfl, by decide +kernel, by decide +kernel⟩⟩

/-- ResultsAreStaleWhileBusy: a register read while busy. -/
theorem witness_stale_results :
    ∃ t, step ((running .rotNone maskM1 opsM1).setInputs [.read 0x140 .b4]) = .next t ∧
      (running .rotNone maskM1 opsM1).busy = true ∧ t.busy = true := by
  refine ⟨_, rfl, by decide +kernel, by decide +kernel⟩

/-- ResultsAreStaleWhileBusy (its second clause), BusyEndsOnlyByCompletionOrReset, ErrorCompletionHasNoOutput: a width of
0. -/
theorem witness_error_completion :
    ∃ t, step (running (.mono false 0) blackBlack (opsCrc 8)) = .next t ∧
      engineMove (running (.mono false 0) blackBlack (opsCrc 8)) = .next t ∧
      (running (.mono false 0) blackBlack (opsCrc 8)).busy = true ∧ t.busy = false ∧ t.status.errcode = 1 ∧
      (running (.mono false 0) blackBlack (opsCrc 8)).status.err = false ∧ t.status.err = true := by
  refine ⟨_, rfl, rfl, ?_⟩
  decide +kernel

/-- ResetRestoresRegistersAndKeepsOtherMemory: a command in flight, a byte in and one outside its output range. -/
theorem witness_reset_during_command :
    ((running .rotNone maskM1 opsM1).setInputs [.resetAssert]).inputs = .resetAssert :: [] ∧
    (running .rotNone maskM1 opsM1).inOutput 9 = true ∧ (running .rotNone maskM1 opsM1).inOutput 10 = false ∧
    idle.engine = .idle := by decide +kernel

/-- BufferHazardIsAFaultAndOtherAccessesAreNot: the last source byte, the last output byte, and the bytes after them. -/
theorem witness_buffer_hazard :
    (running .rotNone maskM1 opsM1).engine = .busy (snapOf .rotNone opsM1) 0 ∧
    (running .rotNone maskM1 opsM1).inReset = false ∧
    decode (snapOf .rotNone opsM1).cmd = .ok .rotNone ∧ target tiny 0x1005 = .buffer 5 ∧
    (sourceRange .rotNone (snapOf .rotNone opsM1)).contains 5 = true ∧
    (sourceRange .rotNone (snapOf .rotNone opsM1)).contains 6 = false ∧
    (outputRange .rotNone (snapOf .rotNone opsM1) (running .rotNone maskM1 opsM1)).contains 9 = true ∧
    (outputRange .rotNone (snapOf .rotNone opsM1) (running .rotNone maskM1 opsM1)).contains 10 = false ∧
    (outputRange .rotNone (snapOf .rotNone opsM1) (running .rotNone maskM1 opsM1)).contains 5 = false := by
  decide +kernel

/-- BufferHazardIsAFaultAndOtherAccessesAreNot: the engine idle, an illegal word in flight, the last byte of memory, and
a byte in both ranges of a command that will end in `OVERLAP`. -/
theorem witness_buffer_access_without_ranges :
    idle.engine = .idle ∧ (acceptCommand 0x00000083 idle).engine = .busy { cmd := 0x00000083, ops := Operands.reset } 0 ∧
    decode 0x00000083 = .error .unusedField ∧ (acceptCommand 0x00000083 idle).inReset = false ∧
    target tiny 0x103F = .buffer 63 ∧ 63 % Size.b1.bytes = 0 ∧ 63 + Size.b1.bytes ≤ tiny.memBytes ∧
    (sourceRange .rotCw (snapOf .rotCw { opsM1 with dstAddr := 5 })).contains 5 = true ∧
    (outputRange .rotCw (snapOf .rotCw { opsM1 with dstAddr := 5 })
      (running .rotCw maskM1 { opsM1 with dstAddr := 5 })).contains 5 = true := by decide +kernel

/-- AssertedResetHoldsTheBlock. -/
theorem witness_asserted_reset :
    (assertReset idle).inReset = true ∧ (assertReset idle).inputs = [] ∧
    ((assertReset idle).setInputs [.resetRelease]).inputs = .resetRelease :: [] := by decide +kernel

/-- HostProgramStepsDoWhatTheySay: a register write, a command, a byte, and a poll that must wait. -/
theorem witness_host_program :
    idle.inReset = false ∧ idle.engine = .idle ∧
    HostStep.inputs tiny (.wr32 .width 3) = [.write 0x11C .b4 3] ∧
    HostStep.inputs tiny (.cmd .rotCw) = [.write 0x108 .b4 0x12] ∧
    target tiny (tiny.bufBase + 63) = .buffer 63 ∧ 63 < tiny.memBytes ∧
    readReg .status (running .rotNone maskM1 opsM1) &&& 1 ≠ 0 ∧ (running .rotNone maskM1 opsM1).busy = true ∧
    readReg .status idle &&& 1 = 0 := by decide +kernel

/-- StepRunsTheDecodedCommand, CommandInFlightCompletes, OutcomeIgnoresLiveRegistersAndOldResults, ChecksumFrame. -/
theorem witness_command_in_flight :
    (running (.crc .b8) [0x41] (opsCrc 1)).engine = .busy (snapOf (.crc .b8) (opsCrc 1)) 0 ∧
    decode (snapOf (.crc .b8) (opsCrc 1)).cmd = .ok (.crc .b8) ∧
    (running (.crc .b8) [0x41] (opsCrc 1)).inReset = false ∧ (running (.crc .b8) [0x41] (opsCrc 1)).inputs = [] ∧
    (running (.crc .b8) [0x41] (opsCrc 1)).busy = true ∧ decodeTableWord 32 0x00000084 = some (.crc .u16) ∧
    (∃ t, exec (.crc .b8) (running (.crc .b8) [0x41] (opsCrc 1)) = .next t ∧ t.status.err = false) := by
  refine ⟨by decide, by decide, by decide, by decide, by decide, by decide, ⟨_, rfl, by decide +kernel⟩⟩

/-- IllegalWordCompletesInError. -/
theorem witness_illegal_word :
    (acceptCommand 0x00000083 idle).engine = .busy { cmd := 0x00000083, ops := Operands.reset } 0 ∧
    decode 0x00000083 = .error .unusedField ∧ (acceptCommand 0x00000083 idle).inputs = [] ∧
    (acceptCommand 0x00000083 idle).inReset = false := by decide

/-- StepKeepsTheInvariant: a command in flight meets the invariant, and the step goes on. -/
theorem witness_invariant :
    (running .rotNone maskM1 opsM1).Inv ∧ ∃ t, step (running .rotNone maskM1 opsM1) = .next t := by
  refine ⟨⟨by decide +kernel, by decide +kernel, ⟨by decide +kernel, fun _ => by decide +kernel, by decide +kernel,
    fun h => (by cases h), fun h => (by cases h)⟩, ⟨by decide +kernel, by decide +kernel, ?_⟩, fun h => (by cases h)⟩, ⟨_, rfl⟩⟩
  intro n acc h
  cases h
  rfl

/-- ChecksFailInTheStatedOrder: `SRC_RANGE` one byte past the end, `DST_RANGE` likewise, `OVERLAP` by one byte, for an
image and a mask. -/
theorem witness_check_order_images :
    ({ base := 57, len := 8 } : Range).valid tiny = false ∧ ({ base := 56, len := 8 } : Range).valid tiny = true ∧
    (outputRange (.mono true 0) (snapOf (.mono true 0) { ops21 with dstAddr := 63 })
      (running (.mono true 0) blackBlack { ops21 with dstAddr := 63 })).valid tiny = false ∧
    (snapOf (.mono true 0) { ops21 with dstAddr := 7 }).pixelRange.overlaps
      (outputRange (.mono true 0) (snapOf (.mono true 0) { ops21 with dstAddr := 7 })
        (running (.mono true 0) blackBlack { ops21 with dstAddr := 7 })) = true ∧
    (snapOf (.mono true 0) { ops21 with dstAddr := 7 }).pixelRange.valid tiny = true ∧
    (snapOf .rotCw { opsM1 with srcAddr := 59 }).maskRange.valid tiny = false ∧
    (outputRange .rotCw (snapOf .rotCw { opsM1 with dstAddr := 62 })
      (running .rotCw maskM1 { opsM1 with dstAddr := 62 })).valid tiny = false ∧
    (snapOf .rotCw { opsM1 with dstAddr := 5 }).maskRange.overlaps
      (outputRange .rotCw (snapOf .rotCw { opsM1 with dstAddr := 5 })
        (running .rotCw maskM1 { opsM1 with dstAddr := 5 })) = true := by decide +kernel

/-- ChecksFailInTheStatedOrder: a width of 0, a partial row, a string past the end, and a unit of 256. -/
theorem witness_check_order_other :
    (opsCrc 8).width.toNat = 0 ∧ ({ ops21 with srcLen := 9 } : Operands).srcLen.toNat % (4 * ops21.width.toNat) ≠ 0 ∧
    ops21.width.toNat ≠ 0 ∧ ops21.srcLen.toNat % (4 * ops21.width.toNat) = 0 ∧
    ((snapOf (.crc .u16) (opsCrc 33)).stringRange .u16).valid tiny = false ∧
    ((snapOf (.crc .u16) (opsCrc 1)).stringRange .u16).valid tiny = true ∧
    256 ∈ (running (.crc .u16) [0x00, 0x01] (opsCrc 1)).codeUnits (snapOf (.crc .u16) (opsCrc 1)) .u16 ∧
    decode 0x00008000 = .error .reservedBits := by decide +kernel

/-- ImageCommandFrame: a command in flight that completes. -/
theorem witness_image_frame :
    (running .rotCcw maskM1 opsM1).engine = .busy (snapOf .rotCcw opsM1) 0 ∧
    (∃ t, exec .rotCcw (running .rotCcw maskM1 opsM1) = .next t) ∧
    ¬((outputRange .rotCcw (snapOf .rotCcw opsM1) (running .rotCcw maskM1 opsM1)).base ≤ 11 ∧
      11 < (outputRange .rotCcw (snapOf .rotCcw opsM1) (running .rotCcw maskM1 opsM1)).base +
        (outputRange .rotCcw (snapOf .rotCcw opsM1) (running .rotCcw maskM1 opsM1)).len) := by
  refine ⟨by decide, ⟨_, rfl⟩, by decide +kernel⟩

/-- DarkIffGrayAtMostCutoff: any pixel and threshold; the three equations name their left sides. -/
theorem witness_gray :
    ∃ (q : Pixel) (p : Nat) (alpha cut : ℚ), alpha = (q.a.toNat : ℚ) / 255 ∧ cut = 255 * (p : ℚ) / 100 :=
  ⟨⟨0, 0, 0, 0⟩, 99, _, _, rfl, rfl⟩

/-- ClassificationConsequences: the ends of the threshold's range, and a pixel for each clause. -/
theorem witness_classification_clauses :
    1 ≤ 1 ∧ 99 ≤ 99 ∧ (⟨0, 0, 0, 170⟩ : Pixel) = ⟨0, 0, 0, (⟨0, 0, 0, 170⟩ : Pixel).a⟩ ∧
    (⟨0, 0, 0, 170⟩ : Pixel).a.toNat ≤ 170 ∧ (⟨9, 9, 9, 0⟩ : Pixel).a = 0 ∧ (⟨9, 9, 9, 255⟩ : Pixel).a = 255 := by decide

/-- CropBoxIsTheBoundingBoxOfDarkPixels, BoxWithoutDarkPixelsOrCropping: the last pixel dark, and none dark. -/
theorem witness_crop :
    (1 < 2 ∧ 0 < 1 ∧ (fun x y => decide (x = 1) && decide (y = 0)) 1 0 = true) ∧
    (∀ x, x < 2 → ∀ y, y < 1 → (fun _ _ => false) x y = false) := by decide

/-- MonoWritesTheCroppedMask, both with and without cropping, the output ending at the last byte of memory. -/
theorem witness_mono :
    let ops : Operands := { ops21 with dstAddr := 62 }
    let s := running (.mono true 99) whiteBlack ops
    let n := snapOf (.mono true 99) ops
    s.engine = .busy n 0 ∧ (1 ≤ 99 ∧ 99 ≤ 99) ∧ 0 < n.ops.width.toNat ∧
    n.ops.srcLen.toNat = 4 * n.ops.width.toNat * 1 ∧ n.pixelRange.valid s.cfg = true ∧
    chooseBox true 2 1 (s.darkAt n 99) = ⟨0, 0, 2, 1⟩ ∧ chooseBox false 2 1 (s.darkAt n 99) = ⟨1, 0, 1, 1⟩ ∧
    ({ base := n.ops.dstAddr.toNat, len := 2 * 1 } : Range).valid s.cfg = true ∧
    n.pixelRange.overlaps { base := n.ops.dstAddr.toNat, len := 2 * 1 } = false ∧
    n.pixelRange.overlaps { base := n.ops.dstAddr.toNat, len := 1 * 1 } = false := by decide +kernel

/-- PackedBitsAreThePixels: the last pad bit of a row of 9. -/
theorem witness_pack : 0 < 1 ∧ 15 < 8 * ((9 + 7) / 8) := by decide

/-- RotatePacksTheRotatedMask, both output shapes, for all four commands. -/
theorem witness_rotate :
    let s := running .rotCw maskM1 opsM1
    let n := snapOf .rotCw opsM1
    s.engine = .busy n 0 ∧ n.ops.width.toNat = 3 ∧ n.ops.height.toNat = 2 ∧ n.ops.dstAddr.toNat = 8 ∧
    n.maskRange.valid s.cfg = true ∧ ({ base := 8, len := (3 + 7) / 8 * 2 } : Range).valid s.cfg = true ∧
    n.maskRange.overlaps { base := 8, len := (3 + 7) / 8 * 2 } = false ∧
    ({ base := 8, len := (2 + 7) / 8 * 3 } : Range).valid s.cfg = true ∧
    n.maskRange.overlaps { base := 8, len := (2 + 7) / 8 * 3 } = false := by decide +kernel

/-- MonopackPacksTheRotatedCrop, in the two output shapes. -/
theorem witness_monopack :
    let s := running (.monopack .cw true 0) whiteBlack ops21
    let n := snapOf (.monopack .cw true 0) ops21
    s.engine = .busy n 0 ∧ 0 < n.ops.width.toNat ∧ n.ops.srcLen.toNat = 4 * n.ops.width.toNat * 1 ∧
    n.pixelRange.valid s.cfg = true ∧ chooseBox true 2 1 (s.darkAt n 50) = ⟨0, 0, 2, 1⟩ ∧ n.ops.dstAddr.toNat = 8 ∧
    ({ base := 8, len := (1 + 7) / 8 * 2 } : Range).valid s.cfg = true ∧
    n.pixelRange.overlaps { base := 8, len := (1 + 7) / 8 * 2 } = false ∧
    ({ base := 8, len := (2 + 7) / 8 * 1 } : Range).valid s.cfg = true ∧
    n.pixelRange.overlaps { base := 8, len := (2 + 7) / 8 * 1 } = false := by decide +kernel

/-- MonopackEqualsMonoThenRotate: the three commands all succeed on the 2 × 1 image, with scratch at 16. -/
theorem witness_monopack_and_two_commands :
    let s := running (.monopack .cw true 0) whiteBlack ops21
    ∃ t t1 t2, s.engine = .busy (snapOf (.monopack .cw true 0) ops21) 0 ∧ s.status.err = false ∧
      exec (.monopack .cw true 0) s = .next t ∧ t.status.err = false ∧
      exec (.mono true 0) (s.setEngine (.busy { cmd := 0x41, ops := { ops21 with dstAddr := 16 } } 0)) = .next t1 ∧
      t1.status.err = false ∧
      exec (.ofRot .cw) (t1.setEngine (.busy { cmd := 0x12, ops :=
        { srcAddr := 16, srcLen := 0, dstAddr := 8, width := t1.image.maskW, height := t1.image.maskH } } 0)) =
        .next t2 ∧ t2.status.err = false := by
  refine ⟨_, _, _, by decide, by decide, rfl, by decide +kernel, rfl, by decide +kernel, rfl, by decide +kernel⟩

/-- AllowedHostAccessDoesNotChangeTheOutcome: a write beside both ranges, and a read of the source. -/
theorem witness_allowed_access :
    let s := running .rotNone maskM1 opsM1
    s.FlagsOk ∧ s.engine = .busy (snapOf .rotNone opsM1) 0 ∧ decode (snapOf .rotNone opsM1).cmd = .ok .rotNone ∧
    (∃ s', inputMove (.write 0x1006 .b1 5) s = .next s') ∧ (∃ s', inputMove (.read 0x1000 .b2) s = .next s') := by
  refine ⟨⟨by decide +kernel, fun _ => by decide +kernel, by decide +kernel, fun h => (by cases h), fun h => (by cases h)⟩,
    by decide, by decide, ⟨_, rfl⟩, ⟨_, rfl⟩⟩

/-- HexRenderingIsFourLowercaseDigits: the first and the last digit. -/
theorem witness_hex : 0 < 4 ∧ 3 < 4 := by decide

/-- ChecksumOfTheCodeUnits: one unit of 255 in each width, the string ending at the last byte of memory. -/
theorem witness_checksum :
    let ops : Operands := { opsCrc 1 with srcAddr := 62 }
    let s := acceptCommand 0x84 ((idle.storeBytes 62 [255, 0]).setOps ops)
    let n : Snapshot := { cmd := 0x84, ops := ops }
    s.engine = .busy n 0 ∧ (n.stringRange .u16).valid s.cfg = true ∧ (n.stringRange .b8).valid s.cfg = true ∧
    (∀ c ∈ s.codeUnits n .u16, c ≤ 255) ∧ (∀ c ∈ s.codeUnits n .b8, c ≤ 255) ∧ s.codeUnits n .u16 = [255] := by
  decide +kernel

end Sys2Proof.Tests
end

/-! PROOFS. The family of 10_state.md: what the operations of a step do to the registers, the flags and the engine, what
a step can be, and the statements about them. -/

namespace Sys2Proof.Machine

/-! ## The register map -/

theorem regAt_offset (r : Reg) : regAt r.offset = some r := by
  cases r <;> rfl

/-- The map lists a register at its own offset and at no other (10_state.md R21). -/
theorem regAt_eq_some_iff {off : Nat} {r : Reg} : regAt off = some r ↔ off = r.offset := by
  refine ⟨fun h => ?_, fun h => h ▸ regAt_offset r⟩
  simpa [eq_comm] using List.find?_some h

theorem regAt_eq_none {off : Nat} (h : ∀ r : Reg, off ≠ r.offset) : regAt off = none :=
  List.find?_eq_none.mpr fun r _ => by simpa [eq_comm] using h r

theorem readOffset_offset (r : Reg) (s : State) : readOffset r.offset s = readReg r s := by
  simp [readOffset, regAt_offset]

theorem readOffset_of_regAt_none {off : Nat} (h : regAt off = none) (s : State) : readOffset off s = 0 := by
  simp [readOffset, h]

theorem writeOffset_offset (r : Reg) (v : Word) (s : State) : writeOffset r.offset v s = writeReg r v s := by
  simp [writeOffset, regAt_offset]

/-- A write at an aligned offset is ignored, or is the write of the register that stands there. -/
theorem writeOffset_cases (off : Nat) (v : Word) (s : State) :
    writeOffset off v s = s ∨ ∃ r : Reg, off = r.offset ∧ writeOffset off v s = writeReg r v s := by
  cases h : regAt off with
  | none => exact .inl (by simp [writeOffset, h])
  | some r =>
    obtain rfl := regAt_eq_some_iff.mp h
    exact .inr ⟨r, rfl, writeOffset_offset r v s⟩

/-- Offset 0 and every offset from 0x024 up hold no register that a write changes (10_state.md R21). -/
theorem writeOffset_readOnly {off : Nat} (h : off = 0 ∨ 0x024 ≤ off) (v : Word) (s : State) :
    writeOffset off v s = s := by
  rcases writeOffset_cases off v s with hs | ⟨r, rfl, hr⟩
  · exact hs
  · rw [hr]
    cases r <;> simp_all [Reg.offset, writeReg]

/-! ## Accesses to the register block -/

theorem registerAccessOk_iff {off : Nat} {size : Size} :
    registerAccessOk off size = true ↔ size = .b4 ∧ off % 4 = 0 := by
  simp [registerAccessOk]

theorem windowAccessOk_iff {cfg : Config} {a : Nat} {size : Size} :
    windowAccessOk cfg a size = true ↔ a % size.bytes = 0 ∧ a + size.bytes ≤ cfg.memBytes := by
  simp [windowAccessOk]

section
variable {s : State} {addr off : Nat} {rest : List Input}

theorem step_read_register (hr : s.inReset = false) (ht : target s.cfg addr = .register off) (ha : off % 4 = 0)
    (hi : s.inputs = .read addr .b4 :: rest) :
    step s = .next ((s.setInputs rest).setResponse (.data (readOffset off (s.setInputs rest)))) := by
  simp [step, nextMove_cons hi, inputMove, hostRead, hr, ht, registerAccessOk, ha]

theorem step_write_register (v : Word) (hr : s.inReset = false) (ht : target s.cfg addr = .register off)
    (ha : off % 4 = 0) (hi : s.inputs = .write addr .b4 v :: rest) :
    step s = .next ((writeOffset off v (s.setInputs rest)).setResponse .ack) := by
  simp [step, nextMove_cons hi, inputMove, hostWrite, hr, ht, registerAccessOk, ha]

/-- An aligned 32-bit write at a register's offset is the write of that register. -/
theorem step_write_offset (r : Reg) (v : Word) (hr : s.inReset = false) (ht : target s.cfg addr = .register r.offset)
    (hi : s.inputs = .write addr .b4 v :: rest) :
    step s = .next ((writeReg r v (s.setInputs rest)).setResponse .ack) := by
  have ha : r.offset % 4 = 0 := by cases r <;> rfl
  rw [step_write_register v hr ht ha hi, writeOffset_offset]
end

/-! ## What a register write leaves unchanged -/

section
variable (r : Reg) (v w : Word) (s : State)

theorem writeCommand_idle {s : State} (h : s.engine = .idle) : writeCommand w s = acceptCommand w s := by
  simp [writeCommand, h]

theorem writeCommand_busy {s : State} (h : s.busy = true) : writeCommand w s = dropCommand s := by
  obtain ⟨n, acc, he⟩ := s.busy_iff.mp h
  simp [writeCommand, he]

/-- A `CMD` write is an acceptance or a drop (10_state.md R31). -/
theorem writeCommand_cases :
    (s.engine = .idle ∧ writeCommand w s = acceptCommand w s) ∨ (s.busy = true ∧ writeCommand w s = dropCommand s) := by
  cases he : s.engine with
  | idle => exact .inl ⟨rfl, writeCommand_idle w he⟩
  | busy n acc =>
    have hb : s.busy = true := s.busy_iff.mpr ⟨n, acc, he⟩
    exact .inr ⟨hb, writeCommand_busy w hb⟩

@[simp] theorem acceptCommand_ovr : (acceptCommand w s).status.ovr = s.status.ovr := rfl
@[simp] theorem dropCommand_ovr : (dropCommand s).status.ovr = true := rfl

/-- A `STATUS` write sets no flag (10_state.md R29). -/
theorem writeStatus_done {v : Word} {s : State} (h : (writeStatus v s).status.done = true) : s.status.done = true :=
  (Bool.and_eq_true_iff.mp h).1

theorem writeStatus_err {v : Word} {s : State} (h : (writeStatus v s).status.err = true) : s.status.err = true :=
  (Bool.and_eq_true_iff.mp h).1

/-- A register write keeps what the host cannot write: parameters, memory, results and the reset input (10_state.md
R21). -/
theorem writeReg_frame :
    (writeReg r v s).cfg = s.cfg ∧ (writeReg r v s).mem = s.mem ∧ (writeReg r v s).image = s.image ∧
      (writeReg r v s).crc = s.crc ∧ (writeReg r v s).inReset = s.inReset := by
  cases r with
  | cmd =>
    rcases writeCommand_cases v s with ⟨-, h⟩ | ⟨-, h⟩ <;> rw [writeReg, h] <;>
      exact ⟨rfl, rfl, rfl, rfl, rfl⟩
  | _ => exact ⟨rfl, rfl, rfl, rfl, rfl⟩

/-- Only a write of `STATUS` or `CMD` touches the flags, the engine or `CMD`. -/
theorem writeReg_flags_frame {r : Reg} (hs : r ≠ .status) (hc : r ≠ .cmd) :
    (writeReg r v s).status = s.status ∧ (writeReg r v s).engine = s.engine ∧ (writeReg r v s).cmd = s.cmd := by
  cases r with
  | status => exact absurd rfl hs
  | cmd => exact absurd rfl hc
  | _ => exact ⟨rfl, rfl, rfl⟩

/-- No register write ends the busy phase (10_state.md R46, R47). -/
theorem writeReg_busy {s : State} (h : s.busy = true) : (writeReg r v s).busy = true := by
  by_cases hs : r = .status
  · subst hs
    exact h
  · by_cases hc : r = .cmd
    · subst hc
      rw [writeReg, writeCommand_busy v h]
      exact h
    · obtain ⟨-, he, -⟩ := writeReg_flags_frame v s hs hc
      simpa [State.busy, he] using h

/-- A register write that clears `OVR` is one of `STATUS` with bit 3 set (10_state.md R28). -/
theorem writeReg_clears_ovr {r : Reg} {v : Word} {s : State} (h : s.status.ovr = true)
    (h' : (writeReg r v s).status.ovr = false) : r = .status ∧ v.getLsbD 3 = true := by
  by_cases hs : r = .status
  · subst hs
    exact ⟨rfl, by simpa [writeReg, writeStatus, h] using h'⟩
  · by_cases hc : r = .cmd
    · subst hc
      rcases writeCommand_cases v s with ⟨-, hw⟩ | ⟨-, hw⟩ <;> simp [writeReg, hw, h] at h'
    · obtain ⟨hst, -, -⟩ := writeReg_flags_frame v s hs hc
      simp [hst, h] at h'
end

/-! ## What a step can be -/

/-- What the engine's completion of the command with snapshot `n` can leave: an error completion and nothing else, the
success of an image command whose output range is valid, or the success of `CRC` (10_state.md R47). -/
inductive Completion (n : Snapshot) (s : State) : State → Prop
  | error (c : ErrorCode) : Completion n s (raiseError c s)
  | image (i : Instr) (p : ImagePlan) (planned : plannedOutput i n s = some p)
      (valid : (outputRange i n s).valid s.cfg = true) : Completion n s (imageSuccess n p s)
  | crc (sum : BitVec 16) : Completion n s (finishCrc n sum s)

/-- What a step can leave: nothing but a change of the host's moves and port, an aligned register write, a window
write, a completion, or an edge of the reset input. -/
inductive StepOutcome (s : State) : State → Prop
  | quiet (ins : List Input) (resp : Response) : StepOutcome s ((s.setInputs ins).setResponse resp)
  | register {addr off : Nat} {v : Word} {rest : List Input} (inputs : s.inputs = .write addr .b4 v :: rest)
      (reaches : target s.cfg addr = .register off) (released : s.inReset = false) :
      StepOutcome s ((writeOffset off v (s.setInputs rest)).setResponse .ack)
  | window {addr a : Nat} {size : Size} {v : Word} {rest : List Input} (inputs : s.inputs = .write addr size v :: rest)
      (reaches : target s.cfg addr = .buffer a) (inside : a + size.bytes ≤ s.cfg.memBytes)
      (released : s.inReset = false) :
      StepOutcome s (((s.setInputs rest).memWrite a size.bytes v.toNat).setResponse .ack)
  | completion {n : Snapshot} {acc : BitVec 16} {t : State} (ins : List Input) (resp : Response)
      (released : s.inReset = false) (inFlight : s.engine = .busy n acc)
      (completes : Completion n ((s.setInputs ins).setResponse resp) t) : StepOutcome s t
  | resetAssert {rest : List Input} (inputs : s.inputs = .resetAssert :: rest) :
      StepOutcome s (assertReset (s.setInputs rest))
  | resetRelease {rest : List Input} (inputs : s.inputs = .resetRelease :: rest) :
      StepOutcome s (releaseReset (s.setInputs rest))

section
variable {s t : State}

theorem exec_completion {i : Instr} (h : exec i s = .next t) :
    ∃ n acc, s.engine = .busy n acc ∧ Completion n s t := by
  obtain ⟨n, acc, he, ⟨c, rfl⟩ | ⟨p, hp, hv, -, rfl⟩ | ⟨u, sum, -, -, -, rfl⟩⟩ := exec_cases h
  · exact ⟨n, acc, he, .error c⟩
  · exact ⟨n, acc, he, .image i p hp hv⟩
  · exact ⟨n, acc, he, .crc sum⟩

/-- The engine's move is nothing, or the completion of the command in flight. -/
theorem engineMove_completion (h : engineMove s = .next t) :
    t = s ∨ ∃ n acc, s.inReset = false ∧ s.engine = .busy n acc ∧ Completion n s t := by
  rcases engineMove_cases s with ⟨hm, -⟩ | ⟨n, acc, hr, he, ⟨e, -, hm⟩ | ⟨i, -, hm⟩⟩
  · rw [hm] at h
    cases h
    exact .inl rfl
  · rw [hm] at h
    cases h
    exact .inr ⟨n, acc, hr, he, .error _⟩
  · rw [hm] at h
    obtain ⟨n', acc', he', hc⟩ := exec_completion h
    exact .inr ⟨n', acc', hr, he', hc⟩

theorem engineMove_outcome {ins : List Input} {resp : Response}
    (h : engineMove ((s.setInputs ins).setResponse resp) = .next t) : StepOutcome s t := by
  rcases engineMove_completion h with rfl | ⟨n, acc, hr, he, hc⟩
  · exact .quiet ins resp
  · exact .completion ins resp hr he hc

/-- A host read answers on the port and does nothing else (10_state.md R22). -/
theorem hostRead_outcome {addr : Nat} {size : Size} {rest : List Input}
    (h : hostRead addr size (s.setInputs rest) = .next t) : StepOutcome s t := by
  unfold hostRead at h
  repeat' split at h
  all_goals cases h
  all_goals exact .quiet rest _

theorem hostWrite_outcome {addr : Nat} {size : Size} {v : Word} {rest : List Input}
    (hi : s.inputs = .write addr size v :: rest) (h : hostWrite addr size v (s.setInputs rest) = .next t) :
    StepOutcome s t := by
  unfold hostWrite at h
  by_cases hr : s.inReset = true
  · simp [hr] at h
  · have released : s.inReset = false := by simpa using hr
    rw [if_neg (by simpa using hr)] at h
    split at h
    · rename_i off reaches
      split at h
      · rename_i hok
        cases h
        obtain ⟨rfl, -⟩ := registerAccessOk_iff.mp hok
        exact .register hi reaches released
      · cases h
        exact .quiet rest _
    · rename_i a reaches
      split at h
      · rename_i hok
        obtain ⟨-, inside⟩ := windowAccessOk_iff.mp hok
        split at h
        · cases h
        · cases h
          exact .window hi reaches inside released
      · cases h
        exact .quiet rest _
    · cases h
      exact .quiet rest _

theorem pollMove_outcome {r : Reg} {mask value : Word} {rest : List Input}
    (h : pollMove r mask value (s.setInputs rest) = .next t) : StepOutcome s t := by
  unfold pollMove at h
  split at h
  · cases h
  · simp only at h
    split at h
    · cases h
      exact .quiet rest _
    · exact engineMove_outcome (ins := .poll r mask value :: rest) (resp := .data (readReg r (s.setInputs rest))) h

/-- What a step can do, said once: every invariant and frame of a step is a case split over these six outcomes. -/
theorem step_outcome (h : step s = .next t) : StepOutcome s t := by
  cases hi : s.inputs with
  | nil =>
    rw [step, nextMove_nil hi] at h
    exact engineMove_outcome (ins := s.inputs) (resp := s.response) h
  | cons input rest =>
    rw [step, nextMove_cons hi] at h
    cases input with
    | read addr size => exact hostRead_outcome h
    | write addr size v => exact hostWrite_outcome hi h
    | poll r mask value => exact pollMove_outcome h
    | engine => exact engineMove_outcome (ins := rest) (resp := s.response) h
    | resetAssert =>
      cases h
      exact .resetAssert hi
    | resetRelease =>
      cases h
      exact .resetRelease hi
end

/-! ## What a completion leaves -/

namespace Completion
variable {n : Snapshot} {s t : State}

theorem ovr (h : Completion n s t) : t.status.ovr = s.status.ovr := by
  cases h <;> rfl

theorem done_or_err (h : Completion n s t) : t.status.done = true ∨ t.status.err = true := by
  cases h with
  | error c => exact .inr rfl
  | image i p planned valid => exact .inl rfl
  | crc sum => exact .inl rfl

end Completion

/-! ## Facts about errors, plans and abandoned commands -/

/-- Every error records a code from 1 to 7 (60_exceptions.md R200). -/
theorem ErrorCode.code_range (c : ErrorCode) : c.code ≠ 0 ∧ c.code.toNat ≤ 7 := by
  cases c <;> decide

/-- An output that fits the memory has exact stride and height registers, or is empty: `OUT_LEN` is their product
(10_state.md R42). -/
theorem ImagePlan.results_outLen (p : ImagePlan) (h : p.len ≤ 2 ^ 31) :
    p.results.outLen.toNat = p.results.outStride.toNat * p.results.outH.toNat := by
  simp only [ImagePlan.results, ImagePlan.len, BitVec.toNat_ofNat] at h ⊢
  rcases Nat.eq_zero_or_pos p.stride with h0 | hstride
  · simp [h0]
  · rcases Nat.eq_zero_or_pos p.outH with h0 | houtH
    · simp [h0]
    · have hstride_le : p.stride ≤ p.stride * p.outH := Nat.le_mul_of_pos_right _ houtH
      have houtH_le : p.outH ≤ p.stride * p.outH := Nat.le_mul_of_pos_left _ hstride
      rw [Nat.mod_eq_of_lt (by omega), Nat.mod_eq_of_lt (by omega), Nat.mod_eq_of_lt (by omega)]

theorem outputRange_of_planned {i : Instr} {n : Snapshot} {s : State} {p : ImagePlan}
    (h : plannedOutput i n s = some p) : outputRange i n s = { base := n.ops.dstAddr.toNat, len := p.len } := by
  simp [outputRange, h]

theorem Range.clip_valid (r : Range) (cfg : Config) : (r.clip cfg).valid cfg = true := by
  simp only [Range.valid_iff, Range.clip]
  omega

/-- Abandoning a command does no more to the memory than a store inside it (70_reset_and_hazards.md R241). -/
theorem abandonCommand_stores (s : State) :
    ∃ a bs, (bs.length = 0 ∨ a + bs.length ≤ s.cfg.memBytes) ∧
      (abandonCommand s).mem = (s.storeBytes a bs).mem ∧ (abandonCommand s).cfg = s.cfg := by
  unfold abandonCommand
  split
  · exact ⟨0, [], .inl rfl, rfl, rfl⟩
  · rename_i i n hf
    refine ⟨_, _, ?_, rfl, rfl⟩
    simpa using (Range.valid_iff _ _).mp (Range.clip_valid (outputRange i n s) s.cfg)

/-! ## The invariant -/

namespace State
variable {s t : State}

theorem FlagsOk.of_eq (h : s.FlagsOk) (hs : t.status = s.status) (he : t.engine = s.engine) : t.FlagsOk := by
  have hb : t.busy = s.busy := by simp [State.busy, he]
  obtain ⟨hx, hc, hl, hd, hz⟩ := h
  exact ⟨hs ▸ hx, by rwa [hb, hs], hs ▸ hl, hs ▸ hd, hs ▸ hz⟩

theorem RegistersOk.of_eq (h : s.RegistersOk) (hi : t.image = s.image) (hc : t.crc = s.crc) (hw : t.cmd = s.cmd)
    (he : t.engine = s.engine) : t.RegistersOk := by
  obtain ⟨hl, hx, hn⟩ := h
  exact ⟨hi ▸ hl, hc ▸ hx, by rwa [he, hw]⟩

/-- With the reset input released, nothing is held. -/
theorem heldInReset_of_released (h : t.inReset = false) : t.heldInReset := fun hr => by
  simp [h] at hr

/-- The host's moves and its port are no part of the invariant. -/
theorem Inv.setInputs_setResponse (h : s.Inv) (ins : List Input) (resp : Response) :
    ((s.setInputs ins).setResponse resp).Inv where
  memWf := h.memWf
  memInside := h.memInside
  flags := h.flags.of_eq rfl rfl
  registers := h.registers.of_eq rfl rfl rfl rfl
  reset := h.reset

/-- A store inside the buffer memory keeps its bytes canonical and inside it (20_memory.md R60). -/
theorem storeBytes_memInside (h : s.memInside) {a : Nat} {bs : List Byte}
    (hb : bs.length = 0 ∨ a + bs.length ≤ s.cfg.memBytes) : (s.storeBytes a bs).memInside := fun c hc => by
  rcases Memory.mem_writeBytes hc with hc | hc
  · exact h c hc
  · simp only [storeBytes_cfg]
    omega

theorem Inv.storeBytes (h : s.Inv) {a : Nat} {bs : List Byte} (hb : bs.length = 0 ∨ a + bs.length ≤ s.cfg.memBytes) :
    (s.storeBytes a bs).Inv where
  memWf := Memory.writeBytes_wf h.memWf a bs
  memInside := storeBytes_memInside h.memInside hb
  flags := h.flags.of_eq rfl rfl
  registers := h.registers.of_eq rfl rfl rfl rfl
  reset := h.reset

/-! ### Register writes -/

theorem FlagsOk.writeStatus (h : s.FlagsOk) (v : Word) : (writeStatus v s).FlagsOk where
  exclusive := fun ⟨hd, he⟩ => h.exclusive ⟨writeStatus_done hd, writeStatus_err he⟩
  clearWhileBusy hb := by
    obtain ⟨hd, he⟩ := h.clearWhileBusy hb
    simp [Machine.writeStatus, hd, he]
  codeLegal := h.codeLegal
  doneCode hd := h.doneCode (writeStatus_done hd)
  errCode he := h.errCode (writeStatus_err he)

theorem FlagsOk.acceptCommand (h : s.FlagsOk) (w : Word) : (acceptCommand w s).FlagsOk where
  exclusive := by simp [Machine.acceptCommand]
  clearWhileBusy _ := ⟨rfl, rfl⟩
  codeLegal := h.codeLegal
  doneCode hd := by simp [Machine.acceptCommand] at hd
  errCode he := by simp [Machine.acceptCommand] at he

theorem FlagsOk.dropCommand (h : s.FlagsOk) : (dropCommand s).FlagsOk :=
  ⟨h.exclusive, h.clearWhileBusy, h.codeLegal, h.doneCode, h.errCode⟩

theorem FlagsOk.writeReg (h : s.FlagsOk) (r : Reg) (v : Word) : (writeReg r v s).FlagsOk := by
  cases r with
  | status => exact h.writeStatus v
  | cmd =>
    rcases writeCommand_cases v s with ⟨-, hw⟩ | ⟨-, hw⟩ <;> rw [Machine.writeReg, hw]
    · exact h.acceptCommand v
    · exact h.dropCommand
  | _ => exact h.of_eq rfl rfl

theorem RegistersOk.writeReg (h : s.RegistersOk) (r : Reg) (v : Word) : (writeReg r v s).RegistersOk := by
  cases r with
  | cmd =>
    rcases writeCommand_cases v s with ⟨-, hw⟩ | ⟨-, hw⟩ <;> rw [Machine.writeReg, hw]
    · refine ⟨h.outLen, h.crcHex, fun n acc he => ?_⟩
      cases he
      rfl
    · exact h.of_eq rfl rfl rfl rfl
  | _ => exact h.of_eq rfl rfl rfl rfl

theorem Inv.writeReg (h : s.Inv) (hr : s.inReset = false) (r : Reg) (v : Word) : (writeReg r v s).Inv := by
  obtain ⟨hcfg, hmem, -, -, hin⟩ := writeReg_frame r v s
  exact
    { memWf := hmem ▸ h.memWf
      memInside := fun c hc => hcfg ▸ h.memInside c (hmem ▸ hc)
      flags := h.flags.writeReg r v
      registers := h.registers.writeReg r v
      reset := heldInReset_of_released (hin.trans hr) }

theorem Inv.writeOffset (h : s.Inv) (hr : s.inReset = false) (off : Nat) (v : Word) : (writeOffset off v s).Inv := by
  rcases writeOffset_cases off v s with hw | ⟨r, -, hw⟩ <;> rw [hw]
  · exact h
  · exact h.writeReg hr r v

/-! ### Completions -/

theorem FlagsOk.raiseError (h : s.FlagsOk) (hb : s.busy = true) (c : ErrorCode) : (raiseError c s).FlagsOk := by
  obtain ⟨hd, -⟩ := h.clearWhileBusy hb
  obtain ⟨hnz, hle⟩ := c.code_range
  exact ⟨by simp [hd], fun hidle => (nomatch hidle), hle, by simp [hd], fun _ => hnz⟩

theorem FlagsOk.complete (he : s.status.err = false) : (complete s).FlagsOk :=
  ⟨by simp [he], fun hidle => (nomatch hidle), by simp, fun _ => rfl, by simp [he]⟩

/-- An idle engine holds no snapshot that could differ from `CMD`. -/
theorem RegistersOk.of_idle (hl : t.image.outLen.toNat = t.image.outStride.toNat * t.image.outH.toNat)
    (hx : t.crc.hex = hex4 t.crc.val) (he : t.engine = .idle) : t.RegistersOk :=
  ⟨hl, hx, by simp [he]⟩

theorem Inv.raiseError (h : s.Inv) (hb : s.busy = true) (hr : s.inReset = false) (c : ErrorCode) :
    (raiseError c s).Inv where
  memWf := h.memWf
  memInside := h.memInside
  flags := h.flags.raiseError hb c
  registers := .of_idle h.registers.outLen h.registers.crcHex rfl
  reset := heldInReset_of_released hr

theorem Inv.finishCrc (h : s.Inv) (hb : s.busy = true) (hr : s.inReset = false) (n : Snapshot) (sum : BitVec 16) :
    (finishCrc n sum s).Inv where
  memWf := h.memWf
  memInside := h.memInside
  flags := .complete (h.flags.clearWhileBusy hb).2
  registers := .of_idle h.registers.outLen rfl rfl
  reset := heldInReset_of_released hr

theorem Inv.imageSuccess (h : s.Inv) (hb : s.busy = true) (hr : s.inReset = false) {n : Snapshot} {p : ImagePlan}
    (hlen : p.bytes.length = p.len)
    (hv : ({ base := n.ops.dstAddr.toNat, len := p.len } : Range).valid s.cfg = true) : (imageSuccess n p s).Inv := by
  have stored : (s.storeBytes n.ops.dstAddr.toNat p.bytes).Inv :=
    h.storeBytes (hlen ▸ (Range.valid_iff _ _).mp hv)
  exact
    { memWf := stored.memWf
      memInside := stored.memInside
      flags := .complete (h.flags.clearWhileBusy hb).2
      registers := .of_idle (p.results_outLen (Range.valid_len_le hv)) h.registers.crcHex rfl
      reset := heldInReset_of_released hr }

theorem Inv.completion (h : s.Inv) (hb : s.busy = true) (hr : s.inReset = false) {n : Snapshot}
    (hc : Completion n s t) : t.Inv := by
  cases hc with
  | error c => exact h.raiseError hb hr c
  | image i p planned valid =>
    exact h.imageSuccess hb hr (plannedOutput_length planned) (outputRange_of_planned planned ▸ valid)
  | crc sum => exact h.finishCrc hb hr n sum

/-! ### Reset -/

theorem FlagsOk.of_reset (hs : t.status = .reset) : t.FlagsOk := by
  constructor <;> simp [hs, Status.reset]

/-- `CRC_HEX` resets to the rendering of 0 (10_state.md R43). -/
theorem crcReset_hex : CrcResults.reset.hex = hex4 CrcResults.reset.val := by decide

theorem Inv.assertReset (h : s.Inv) : (assertReset s).Inv := by
  obtain ⟨a, bs, hb, hmem, hcfg⟩ := abandonCommand_stores s
  have stored := h.storeBytes hb
  exact
    { memWf := hmem ▸ stored.memWf
      memInside := fun c hc => hcfg ▸ stored.memInside c (hmem ▸ hc)
      flags := .of_reset rfl
      registers := .of_idle rfl crcReset_hex rfl
      reset := fun _ => ⟨rfl, rfl, rfl, rfl, rfl, rfl, rfl⟩ }

theorem Inv.releaseReset (h : s.Inv) : (releaseReset s).Inv where
  memWf := h.memWf
  memInside := h.memInside
  flags := h.flags.of_eq rfl rfl
  registers := h.registers.of_eq rfl rfl rfl rfl
  reset := heldInReset_of_released rfl

/-! ### Steps -/

theorem Inv.step (h : s.Inv) (hs : step s = .next t) : t.Inv := by
  cases step_outcome hs with
  | quiet ins resp => exact h.setInputs_setResponse ins resp
  | @register addr off v rest inputs reaches released =>
    exact ((h.setInputs_setResponse rest s.response).writeOffset released off v).setInputs_setResponse _ .ack
  | window inputs reaches inside released =>
    exact ((h.setInputs_setResponse _ s.response).storeBytes
      (.inr (by simpa using inside))).setInputs_setResponse _ .ack
  | @completion n acc _ ins resp released inFlight completes =>
    have hb : s.busy = true := s.busy_iff.mpr ⟨n, acc, inFlight⟩
    exact (h.setInputs_setResponse ins resp).completion hb released completes
  | @resetAssert rest inputs => exact (h.setInputs_setResponse rest s.response).assertReset
  | @resetRelease rest inputs => exact (h.setInputs_setResponse rest s.response).releaseReset

theorem inv_reset : State.reset.Inv where
  memWf := List.Pairwise.nil
  memInside _ hc := nomatch hc
  flags := .of_reset rfl
  registers := .of_idle rfl crcReset_hex rfl
  reset := heldInReset_of_released rfl

end State

/-- Settles O32: each of the six outcomes of a step keeps the invariant. -/
theorem stepKeepsTheInvariant : Obligations.StepKeepsTheInvariant := fun _ _ h hs => h.step hs

/-- Settles O31: the base case of the invariant. -/
theorem invariantHoldsAtReset : Obligations.InvariantHoldsAtReset := State.inv_reset

/-! ## The flags along a step -/

section
variable {s t : State}

/-- `OVR` is cleared by a `STATUS` write with bit 3 set or by reset, and by no other outcome of a step (10_state.md
R28). -/
theorem step_clears_ovr (hs : step s = .next t) (h : s.status.ovr = true) (h' : t.status.ovr = false) :
    (∃ rest, s.inputs = .resetAssert :: rest) ∨
    ∃ addr v rest, s.inputs = .write addr .b4 v :: rest ∧ target s.cfg addr = .register 0x004 ∧
      v.getLsbD 3 = true := by
  cases step_outcome hs with
  | quiet ins resp => simp [h] at h'
  | @register addr off v rest inputs reaches released =>
    rcases writeOffset_cases off v (s.setInputs rest) with hw | ⟨r, rfl, hw⟩ <;>
      rw [State.setResponse_status, hw] at h'
    · simp [h] at h'
    · obtain ⟨rfl, hv⟩ := writeReg_clears_ovr (s := s.setInputs rest) h h'
      exact .inr ⟨addr, v, rest, inputs, reaches, hv⟩
  | window inputs reaches inside released => simp [State.memWrite, h] at h'
  | completion ins resp released inFlight completes => simp [completes.ovr, h] at h'
  | @resetAssert rest inputs => exact .inl ⟨rest, inputs⟩
  | resetRelease inputs => simp [releaseReset, h] at h'

/-- The busy phase ends in a completion or in reset, and in no other outcome of a step (10_state.md R47). -/
theorem step_ends_busy (hs : step s = .next t) (h : s.busy = true) (h' : t.busy = false) :
    t.status.done = true ∨ t.status.err = true ∨ ∃ rest, s.inputs = .resetAssert :: rest := by
  cases step_outcome hs with
  | quiet ins resp => simp [h] at h'
  | @register addr off v rest inputs reaches released =>
    rcases writeOffset_cases off v (s.setInputs rest) with hw | ⟨r, -, hw⟩ <;>
      rw [State.setResponse_busy, hw] at h'
    · simp [h] at h'
    · simp [writeReg_busy (s := s.setInputs rest) r v h] at h'
  | window inputs reaches inside released => simp [State.memWrite, State.storeBytes, h] at h'
  | completion ins resp released inFlight completes => exact completes.done_or_err.imp_right .inl
  | @resetAssert rest inputs => exact .inr (.inr ⟨rest, inputs⟩)
  | resetRelease inputs => simp [releaseReset, h] at h'

/-- A host write that goes on found the reset input released. -/
theorem released_of_step_write {addr : Nat} {size : Size} {v : Word} {rest : List Input}
    (hi : s.inputs = .write addr size v :: rest) (hs : step s = .next t) : s.inReset = false := by
  rw [step, nextMove_cons hi, inputMove, hostWrite] at hs
  split at hs
  · cases hs
  · rename_i hr
    simpa using hr

/-- A `CMD` write while busy is dropped, and does nothing but set `OVR` (10_state.md R46). -/
theorem step_write_cmd_busy {addr : Nat} {w : Word} {rest : List Input} (hr : s.inReset = false) (hb : s.busy = true)
    (ht : target s.cfg addr = .register 0x008) (hi : s.inputs = .write addr .b4 w :: rest) :
    step s = .next ((dropCommand (s.setInputs rest)).setResponse .ack) := by
  rw [step_write_offset .cmd w hr ht hi, writeReg, writeCommand_busy w (s := s.setInputs rest) hb]
end

/-- Settles O20: a `CMD` write while busy is a drop, and the outcomes of a step show what can clear `OVR`. -/
theorem overrunIsSetAndClearedOnlyAsStated : Obligations.OverrunIsSetAndClearedOnlyAsStated := by
  refine ⟨fun s t addr w rest hb ht hi hs => ?_, fun s t hs => step_clears_ovr hs, fun s w => acceptCommand_ovr w s⟩
  rw [step_write_cmd_busy (released_of_step_write hi hs) hb ht hi] at hs
  cases hs
  rfl

/-- Settles O22: a completion sets `DONE` or `ERR`, and of the other outcomes only reset ends the busy phase. -/
theorem busyEndsOnlyByCompletionOrReset : Obligations.BusyEndsOnlyByCompletionOrReset := fun _ _ => step_ends_busy

/-! ## What a command's outcome depends on -/

/-- `s` and `s'` agree on what a completion reads beside its snapshot: the parameters, the flags and the buffer
memory. -/
structure State.SameSources (s s' : State) : Prop where
  cfg : s'.cfg = s.cfg
  status : s'.status = s.status
  mem : s'.mem = s.mem
  powerUp : s'.powerUp = s.powerUp

namespace State.SameSources
variable {s s' : State} (h : s.SameSources s')
include h

theorem byteAt : s'.byteAt = s.byteAt := funext (State.byteAt_congr h.mem h.powerUp)

theorem darkAt (n : Snapshot) : s'.darkAt n = s.darkAt n := by
  funext p x y
  simp [State.darkAt, State.pixelAt, h.byteAt]

theorem maskPixel (n : Snapshot) : s'.maskPixel n = s.maskPixel n := by
  funext x y
  simp [State.maskPixel, h.byteAt]

theorem codeUnits (n : Snapshot) (u : CodeUnit) : s'.codeUnits n u = s.codeUnits n u :=
  List.map_congr_left fun _ _ => State.memRead_congr fun _ _ => congrFun h.byteAt _

theorem imageChecks (black : Nat) (n : Snapshot) : imageChecks black n s' = imageChecks black n s := by
  simp [Machine.imageChecks, h.cfg]

theorem monoPlan (skip : Bool) (black : Nat) (n : Snapshot) : monoPlan skip black n s' = monoPlan skip black n s := by
  simp [Machine.monoPlan, h.imageChecks, h.darkAt]

theorem rotPlan (mode : RotMode) (n : Snapshot) : rotPlan mode n s' = rotPlan mode n s := by
  simp [Machine.rotPlan, h.cfg, h.maskPixel]

theorem monopackPlan (mode : RotMode) (skip : Bool) (black : Nat) (n : Snapshot) :
    monopackPlan mode skip black n s' = monopackPlan mode skip black n s := by
  simp [Machine.monopackPlan, h.imageChecks, h.darkAt]

end State.SameSources

/-- `t` and `t'` show the same outcome of `i`: flags, memory and, after success, the result registers that `i`
writes. -/
def SameOutcome (i : Instr) (t t' : State) : Prop :=
  t'.status = t.status ∧ t'.mem = t.mem ∧
    (t.status.err = false → ((∃ u, i = .crc u) → t'.crc = t.crc) ∧ ((∀ u, i ≠ .crc u) → t'.image = t.image))

section
variable {i : Instr} {s s' : State} (h : s.SameSources s')
include h

theorem SameOutcome.raiseError (c : ErrorCode) : SameOutcome i (raiseError c s) (raiseError c s') :=
  ⟨by simp [h.status], h.mem, by simp⟩

theorem SameOutcome.finishImage (hi : ∀ u, i ≠ .crc u) (n : Snapshot) (src : Range)
    (plan : Except ErrorCode ImagePlan) : SameOutcome i (finishImage n src plan s) (finishImage n src plan s') := by
  unfold Machine.finishImage
  cases plan with
  | error c => exact .raiseError h c
  | ok p =>
    simp only [h.cfg]
    split
    · split
      · exact .raiseError h _
      · exact ⟨by simp [h.status], by simp [h.mem], fun _ => ⟨fun ⟨u, hu⟩ => absurd hu (hi u), fun _ => rfl⟩⟩
    · exact .raiseError h _

theorem SameOutcome.finishCrc (u : CodeUnit) (n : Snapshot) (sum : BitVec 16) :
    SameOutcome (.crc u) (finishCrc n sum s) (finishCrc n sum s') :=
  ⟨by simp [Machine.finishCrc, latchCrc, setAccumulator, h.status], h.mem, fun _ =>
    ⟨fun _ => rfl, fun hu => absurd rfl (hu u)⟩⟩

variable {n : Snapshot} {acc acc' : BitVec 16}

theorem imageCommand_sameOutcome (he : s.engine = .busy n acc) (he' : s'.engine = .busy n acc')
    (hi : ∀ u, i ≠ .crc u) {src : Snapshot → Range} {plan : Snapshot → State → Except ErrorCode ImagePlan}
    (hp : plan n s' = plan n s) :
    ∃ t t', withCommand s (fun n => finishImage n (src n) (plan n s) s) = .next t ∧
      withCommand s' (fun n => finishImage n (src n) (plan n s') s') = .next t' ∧ SameOutcome i t t' :=
  ⟨_, _, withCommand_busy he _, withCommand_busy he' _, hp ▸ .finishImage h hi n (src n) (plan n s')⟩

theorem execCrc_sameOutcome (he : s.engine = .busy n acc) (he' : s'.engine = .busy n acc') (u : CodeUnit) :
    ∃ t t', execCrc u s = .next t ∧ execCrc u s' = .next t' ∧ SameOutcome (.crc u) t t' := by
  refine ⟨_, _, withCommand_busy he _, withCommand_busy he' _, ?_⟩
  rw [h.cfg, h.codeUnits]
  split
  · split
    · exact .raiseError h _
    · exact .finishCrc h u n _
  · exact .raiseError h _

/-- Two states with the same command in flight and the same sources complete with the same outcome (10_state.md R45). -/
theorem exec_sameOutcome (he : s.engine = .busy n acc) (he' : s'.engine = .busy n acc') (i : Instr) :
    ∃ t t', exec i s = .next t ∧ exec i s' = .next t' ∧ SameOutcome i t t' := by
  cases i with
  | mono skip black => exact imageCommand_sameOutcome h he he' (by simp) (h.monoPlan skip black n)
  | rotNone => exact imageCommand_sameOutcome h he he' (by simp) (h.rotPlan .none n)
  | rotCw => exact imageCommand_sameOutcome h he he' (by simp) (h.rotPlan .cw n)
  | rotCcw => exact imageCommand_sameOutcome h he he' (by simp) (h.rotPlan .ccw n)
  | rot180 => exact imageCommand_sameOutcome h he he' (by simp) (h.rotPlan .half n)
  | monopack rot skip black => exact imageCommand_sameOutcome h he he' (by simp) (h.monopackPlan rot skip black n)
  | crc u => exact execCrc_sameOutcome h he he' u
end

/-- Settles O37: the live registers and old results are no part of what a completion reads. -/
theorem outcomeIgnoresLiveRegistersAndOldResults : Obligations.OutcomeIgnoresLiveRegistersAndOldResults :=
  fun i s n _ acc' ops ie crc image he =>
    have sources :
        s.SameSources (((((s.setEngine (.busy n acc')).setOps ops).setIntEn ie).setCrc crc).setImage image) :=
      ⟨rfl, rfl, rfl, rfl⟩
    exec_sameOutcome sources he rfl i

/-! ## Reset values -/

/-- The reset value of each register (10_state.md R21). -/
theorem readReg_reset (r : Reg) :
    readReg r State.reset = if r = .id then 0x5A504C01 else if r = .crcHex then 0x30303030 else 0 := by
  cases r <;> rfl

/-- Asserting reset gives every register the value it has at `State.reset` (10_state.md R51). -/
theorem readReg_assertReset (r : Reg) (s : State) : readReg r (assertReset s) = readReg r State.reset := by
  cases r <;> rfl

theorem abandonCommand_idle {s : State} (h : s.engine = .idle) : abandonCommand s = s := by
  simp [abandonCommand, State.inFlight, h]

theorem assertReset_mem_idle {s : State} (h : s.engine = .idle) : (assertReset s).mem = s.mem := by
  simp [assertReset, resetRegisters, abandonCommand_idle h]

/-- Settles O9: the registers' reset values, and reset with no command to abandon. -/
theorem resetLeavesTheStatedValues : Obligations.ResetLeavesTheStatedValues :=
  ⟨readReg_reset, fun _ h => readOffset_of_regAt_none h _, rfl, rfl,
    fun s h => ⟨assertReset_mem_idle h, fun r => readReg_assertReset r s⟩⟩

/-! ## Register accesses -/

/-- What a register reads does not depend on the host's moves. -/
@[simp] theorem readReg_setInputs (r : Reg) (ins : List Input) (s : State) :
    readReg r (s.setInputs ins) = readReg r s := by
  cases r <;> rfl

/-- Settles O10: the register map at the offset decides what the read answers. -/
theorem registerReadAnswersAndChangesNothing : Obligations.RegisterReadAnswersAndChangesNothing := by
  intro s addr off rest hr ht ha hi
  have hread := step_read_register hr ht ha hi
  refine ⟨fun r hoff => ?_, fun hoff => ?_⟩
  · rw [hread, hoff, readOffset_offset, readReg_setInputs]
  · rw [hread, readOffset_of_regAt_none (regAt_eq_none hoff)]

/-- Settles O11: no register that a write changes stands at these offsets. -/
theorem readOnlyAndReservedOffsetsIgnoreWrites : Obligations.ReadOnlyAndReservedOffsetsIgnoreWrites := by
  intro s addr off v rest hr ht ha hi hoff
  rw [step_write_register v hr ht ha hi, writeOffset_readOnly (hoff.imp_right And.left)]

/-- A write of `INT_EN` keeps its three low bits, and the register reads them back (10_state.md R32). -/
theorem writeIntEn_getLsbD (v : Word) (s : State) {k : Nat} (hk : k < 3) :
    (writeIntEn v s).intEn.getLsbD k = v.getLsbD k := by
  simp [writeIntEn, State.setIntEn, hk]

theorem intEnWord_writeIntEn (v : Word) (s : State) : (writeIntEn v s).intEnWord.toNat = v.toNat % 8 := by
  have h : v.toNat % 8 < 2 ^ 32 := by omega
  simpa [writeIntEn, State.setIntEn, State.intEnWord] using h

/-- Settles O12: at each of the six offsets the step is the write of that register. -/
theorem operandAndEnableWritesTakeEffectAtOnce : Obligations.OperandAndEnableWritesTakeEffectAtOnce := by
  intro s addr off v rest hr ht hi
  have write (r : Reg) (hoff : off = r.offset) :
      step s = .next ((writeReg r v (s.setInputs rest)).setResponse .ack) :=
    step_write_offset r v hr (hoff ▸ ht) hi
  exact ⟨write .srcAddr, write .srcLen, write .dstAddr, write .width, write .height, fun hoff =>
    ⟨_, write .intEn hoff, rfl, fun _ hk => writeIntEn_getLsbD v (s.setInputs rest) hk,
      intEnWord_writeIntEn v (s.setInputs rest)⟩⟩

/-! ## `STATUS` -/

/-- The fields of the `STATUS` word and its reserved bits (10_state.md R24). -/
theorem statusWord_fields (s : State) :
    s.statusWord.getLsbD 0 = s.busy ∧ s.statusWord.getLsbD 1 = s.status.done ∧
      s.statusWord.getLsbD 2 = s.status.err ∧ s.statusWord.getLsbD 3 = s.status.ovr ∧
      s.statusWord.extractLsb' 4 4 = 0 ∧ s.statusWord.extractLsb' 8 4 = s.status.errcode ∧
      s.statusWord.extractLsb' 12 20 = 0 := by
  unfold State.statusWord
  generalize s.status.done = done, s.status.err = err, s.status.ovr = ovr, s.status.errcode = errcode, s.busy = busy
  revert done err ovr errcode busy
  decide

/-- Settles O16: `STATUS` reads as the status word. -/
theorem statusWordShowsItsFields : Obligations.StatusWordShowsItsFields := statusWord_fields

/-- Settles O15: the step is `writeStatus`, and each flag is kept where its bit is 0. -/
theorem statusWriteClearsExactlyTheWrittenBits : Obligations.StatusWriteClearsExactlyTheWrittenBits := by
  intro s addr v rest hr ht hi
  have cleared (flag bit : Bool) : (flag && !bit) = if bit then false else flag := by cases bit <;> simp
  refine ⟨_, step_write_offset .status v hr ht hi, rfl, cleared _ _, cleared _ _, cleared _ _, rfl, rfl, ?_⟩
  obtain ⟨-, -, -, -, hlow, -, hhigh⟩ := statusWord_fields ((writeStatus v (s.setInputs rest)).setResponse .ack)
  exact ⟨hlow, hhigh⟩

/-! ## `CMD` -/

/-- Settles O18: on an idle engine the step is `acceptCommand`. -/
theorem commandWriteWhileIdleIsAccepted : Obligations.CommandWriteWhileIdleIsAccepted := by
  intro s addr w rest hr he ht hi
  have accepted : step s = .next ((acceptCommand w (s.setInputs rest)).setResponse .ack) := by
    rw [step_write_offset .cmd w hr ht hi, writeReg, writeCommand_idle w (s := s.setInputs rest) he]
  exact ⟨_, accepted, rfl, ⟨0, rfl⟩, rfl, rfl, rfl⟩

/-- Settles O19: on a busy engine the step is `dropCommand`. -/
theorem commandWriteWhileBusyIsDropped : Obligations.CommandWriteWhileBusyIsDropped :=
  fun _ _ _ _ hr hb ht hi => step_write_cmd_busy hr hb ht hi

/-! ## The engine's move -/

theorem engineMove_of_decode {s : State} {n : Snapshot} {acc : BitVec 16} {i : Instr} (hr : s.inReset = false)
    (he : s.engine = .busy n acc) (hd : decode n.cmd = .ok i) : engineMove s = exec i s := by
  simp [engineMove, hr, he, completeCommand, hd]

theorem step_of_engine_input {s : State} {rest : List Input} (h : s.inputs = .engine :: rest) :
    step s = engineMove (s.setInputs rest) := nextMove_cons h

/-- The step after the acceptance of a command is the engine's move, with the host's moves as they were. -/
theorem step_placeCommand (w : Word) (s : State) :
    step (placeCommand w s) = engineMove (((acceptCommand w s).setInReset false).setInputs s.inputs) := by
  cases hi : s.inputs with
  | nil => simp [step, placeCommand, nextMove, engineFirst, hi]
  | cons input rest =>
    have hp : (placeCommand w s).inputs = .engine :: input :: rest := by simp [placeCommand, engineFirst, hi]
    exact step_of_engine_input hp

theorem tableWord_full (w : Nat) : tableWord 32 w = BitVec.ofNat 32 w := by
  simp [tableWord, ← BitVec.toNat_inj]

theorem decode_of_decodeTableWord {w : Nat} {i : Instr} (h : decodeTableWord 32 w = some i) :
    decode (BitVec.ofNat 32 w) = .ok i := by
  rw [decodeTableWord, tableWord_full] at h
  cases hd : decode (BitVec.ofNat 32 w) with
  | error e => simp [hd, Except.toOption] at h
  | ok j => simpa [hd, Except.toOption] using h

/-- Settles O27: in each case it is the engine's move, which is `exec` of the decoded word. -/
theorem stepRunsTheDecodedCommand : Obligations.StepRunsTheDecodedCommand := by
  refine ⟨fun s n acc i hr he hd => ⟨fun hi => ?_, fun rest hi => ?_⟩, fun s w i hw => ?_⟩
  · rw [step, nextMove_nil hi, engineMove_of_decode hr he hd]
  · rw [step_of_engine_input hi, engineMove_of_decode (s := s.setInputs rest) hr he hd]
  · rw [State.withFetchWord, tableWord_full, step_placeCommand]
    exact engineMove_of_decode rfl rfl (decode_of_decodeTableWord hw)

end Sys2Proof.Machine

/-! PROOFS. The family of 20_memory.md: the bytes of a little-endian value, what a host access to the window does while
the engine is idle, and what the completion of an image command leaves unchanged. -/

namespace Sys2Proof.Machine

/-! ## Little-endian values -/

/-- Byte `k` of a value is its digit `k` to the base 256 (20_memory.md R63). -/
theorem leBytes_getElem (n v : Nat) {k : Nat} (hk : k < (leBytes n v).length) :
    (leBytes n v)[k] = BitVec.ofNat 8 (v / 256 ^ k) := by
  induction n generalizing v k with
  | zero => simp [leBytes] at hk
  | succ n ih =>
    cases k with
    | zero => simp [leBytes]
    | succ k => simp [leBytes, ih, Nat.div_div_eq_div_mul, pow_succ']

/-- In a word, digit `k` to the base 256 is the eight bits from bit `8k` up. -/
theorem ofNat_div_eq_extractLsb' (v : Word) (k : Nat) :
    BitVec.ofNat 8 (v.toNat / 256 ^ k) = v.extractLsb' (8 * k) 8 := by
  rw [BitVec.extractLsb', Nat.shiftRight_eq_div_pow, pow_mul, show 2 ^ 8 = 256 from rfl]

namespace State
variable (s : State)

@[simp] theorem memRead_setInputs (ins : List Input) (a n : Nat) : (s.setInputs ins).memRead a n = s.memRead a n :=
  memRead_congr fun _ _ => rfl

@[simp] theorem memRead_setResponse (resp : Response) (a n : Nat) :
    (s.setResponse resp).memRead a n = s.memRead a n :=
  memRead_congr fun _ _ => rfl

/-- Bytes that hold the digits of `v` to the base 256 assemble to the low bytes of `v` (20_memory.md R63). -/
theorem memRead_of_digits {a n v : Nat} (h : ∀ k, k < n → s.byteAt (a + k) = BitVec.ofNat 8 (v / 256 ^ k)) :
    s.memRead a n = v % 256 ^ n := by
  induction n generalizing a v with
  | zero => simp [memRead, Nat.mod_one]
  | succ n ih =>
    have low : (s.byteAt a).toNat = v % 256 := by simpa using congrArg BitVec.toNat (h 0 (by omega))
    have high : s.memRead (a + 1) n = v / 256 % 256 ^ n := ih fun k hk => by
      rw [Nat.div_div_eq_div_mul, ← pow_succ', Nat.add_assoc, Nat.add_comm 1 k]
      exact h (k + 1) (by omega)
    rw [memRead, low, high, pow_succ', Nat.mod_mul]

/-! ### What a multi-byte store leaves in memory -/

theorem memWrite_byteAt_inside (a v : Nat) {n k : Nat} (hk : k < n) :
    (s.memWrite a n v).byteAt (a + k) = BitVec.ofNat 8 (v / 256 ^ k) := by
  rw [memWrite, storeBytes_byteAt_inside _ _ _ (by simpa using hk), leBytes_getElem]

theorem memWrite_sameOutside (a n v : Nat) : s.SameOutside (s.memWrite a n v) a n := fun _ hc =>
  storeBytes_byteAt_outside _ _ _ (by simpa using hc)

/-- A store reads back as the low bytes of the value stored. -/
theorem memRead_memWrite (a n v : Nat) : (s.memWrite a n v).memRead a n = v % 256 ^ n :=
  memRead_of_digits _ fun _ => s.memWrite_byteAt_inside a v

/-! ### Hazards of an idle engine -/

variable {s}

theorem readHazard_idle (h : s.engine = .idle) (a n : Nat) : s.readHazard a n = false := by
  simp [readHazard, inOutput, inFlight, h]

theorem writeHazard_idle (h : s.engine = .idle) (a n : Nat) : s.writeHazard a n = false := by
  simp [writeHazard, inSource, inOutput, inFlight, h]

end State

/-! ## Accesses to the window with no command in flight -/

section
variable {s : State} {addr a : Nat} {size : Size} {rest : List Input}

/-- An aligned read inside the memory answers the bytes it covers (20_memory.md R62). -/
theorem step_read_window (hr : s.inReset = false) (he : s.engine = .idle) (ht : target s.cfg addr = .buffer a)
    (hok : windowAccessOk s.cfg a size = true) (hi : s.inputs = .read addr size :: rest) :
    step s = .next ((s.setInputs rest).setResponse (.data (BitVec.ofNat 32 (s.memRead a size.bytes)))) := by
  have noHazard : (s.setInputs rest).readHazard a size.bytes = false := State.readHazard_idle he a _
  simp [step, nextMove_cons hi, inputMove, hostRead, hr, ht, hok, noHazard]

/-- An aligned write inside the memory stores the low bytes of its value (20_memory.md R62). -/
theorem step_write_window (v : Word) (hr : s.inReset = false) (he : s.engine = .idle)
    (ht : target s.cfg addr = .buffer a) (hok : windowAccessOk s.cfg a size = true)
    (hi : s.inputs = .write addr size v :: rest) :
    step s = .next (((s.setInputs rest).memWrite a size.bytes v.toNat).setResponse .ack) := by
  have noHazard : (s.setInputs rest).writeHazard a size.bytes = false := State.writeHazard_idle he a _
  simp [step, nextMove_cons hi, inputMove, hostWrite, hr, ht, hok, noHazard]
end

/-- Settles O14: the first step is the store and the second the read of the bytes just stored. -/
theorem windowWriteThenReadIsLittleEndian : Obligations.WindowWriteThenReadIsLittleEndian := by
  intro s addr a size v rest hr he ht ha hin hi
  have hok : windowAccessOk s.cfg a size = true := windowAccessOk_iff.mpr ⟨ha, hin⟩
  have write := step_write_window v hr he ht hok hi
  have read := step_read_window
    (s := ((s.setInputs (.read addr size :: rest)).memWrite a size.bytes v.toNat).setResponse .ack) hr he ht hok rfl
  rw [State.memRead_setResponse, State.memRead_memWrite] at read
  refine ⟨_, _, write, read, rfl, fun k hk => ?_, State.memWrite_sameOutside _ a _ _, rfl⟩
  rw [← ofNat_div_eq_extractLsb']
  exact State.memWrite_byteAt_inside _ a _ hk

/-! ## What the completion of an image command leaves unchanged -/

theorem raiseError_sameShell (c : ErrorCode) (s : State) : s.SameShell (raiseError c s) := by
  constructor <;> rfl

theorem imageSuccess_sameShell (n : Snapshot) (p : ImagePlan) (s : State) : s.SameShell (imageSuccess n p s) := by
  constructor <;> rfl

/-- A success stores its plan's bytes at `DST_ADDR` and no others (20_memory.md R72). -/
theorem imageSuccess_sameOutside (n : Snapshot) (p : ImagePlan) (s : State) :
    s.SameOutside (imageSuccess n p s) n.ops.dstAddr.toNat p.bytes.length := fun _ =>
  State.storeBytes_byteAt_outside s _ _

/-- The bytes that a success stores are those of the output range the command computes (60_exceptions.md R206). -/
theorem imageSuccess_sameOutside_outputRange {i : Instr} {n : Snapshot} {p : ImagePlan} {s : State}
    (h : plannedOutput i n s = some p) :
    s.SameOutside (imageSuccess n p s) (outputRange i n s).base (outputRange i n s).len := by
  rw [outputRange_of_planned h, ← plannedOutput_length h]
  exact imageSuccess_sameOutside n p s

/-- Settles O35: an image command ends in an error completion or in the success of its plan. -/
theorem imageCommandFrame : Obligations.ImageCommandFrame := by
  intro i s t n acc hi he hx
  have notCrc (u : CodeUnit) : i ≠ .crc u := by
    obtain ⟨_, _, _, rfl | rfl | rfl | rfl | rfl | rfl⟩ := hi <;> simp
  obtain ⟨m, acc', hm, hcases⟩ := exec_cases hx
  obtain ⟨rfl, rfl⟩ : n = m ∧ acc = acc' := by simpa [he] using hm
  rcases hcases with ⟨c, rfl⟩ | ⟨p, planned, -, -, rfl⟩ | ⟨u, -, hu, -⟩
  · exact ⟨raiseError_sameShell c s, rfl, rfl, fun _ _ => rfl⟩
  · exact ⟨imageSuccess_sameShell n p s, rfl, rfl, imageSuccess_sameOutside_outputRange planned⟩
  · exact absurd hu (notCrc u)

end Sys2Proof.Machine

/-! PROOFS. The family of 30_encoding.md: the command word as its fields, the decoder as an equation per `OP`, the opcode
map, and the statements about them. -/

namespace Sys2Proof

/-! ## The command word and its fields (30_encoding.md R80), as numbers -/

section
variable (w : Word)

theorem opField_toNat : (opField w).toNat = w.toNat % 16 := by
  simp [opField]

theorem rotField_toNat : (rotField w).toNat = w.toNat / 16 % 4 := by
  simp [rotField, Nat.shiftRight_eq_div_pow]

theorem skipField_toNat : (skipField w).toNat = w.toNat / 64 % 2 := by
  simp [skipField, Nat.shiftRight_eq_div_pow]

theorem cuwField_toNat : (cuwField w).toNat = w.toNat / 128 % 2 := by
  simp [cuwField, Nat.shiftRight_eq_div_pow]

theorem blackField_toNat : (blackField w).toNat = w.toNat / 256 % 128 := by
  simp [blackField, Nat.shiftRight_eq_div_pow]

theorem reservedField_toNat : (reservedField w).toNat = w.toNat / 32768 := by
  have : w.toNat / 32768 < 131072 := by omega
  simp [reservedField, Nat.shiftRight_eq_div_pow, this]
end

section
variable (op : BitVec 4) (rot : BitVec 2) (skip cuw : BitVec 1) (black : BitVec 7)

/-- An appended field adds its value below the others. -/
theorem toNat_append_add {m n : Nat} (x : BitVec m) (y : BitVec n) : (x ++ y).toNat = x.toNat * 2 ^ n + y.toNat := by
  rw [BitVec.toNat_append, ← Nat.shiftLeft_add_eq_or_of_lt y.isLt, Nat.shiftLeft_eq]

theorem commandWord_toNat : (commandWord op rot skip cuw black).toNat =
    op.toNat + 16 * rot.toNat + 64 * skip.toNat + 128 * cuw.toNat + 256 * black.toNat := by
  have append : (commandWord op rot skip cuw black).toNat = _ :=
    toNat_append_add ((0 : BitVec 17) ++ black ++ cuw ++ skip ++ rot) op
  simp only [append, toNat_append_add, BitVec.ofNat_eq_ofNat, BitVec.toNat_ofNat]
  omega

@[simp] theorem fields_commandWord :
    opField (commandWord op rot skip cuw black) = op ∧ rotField (commandWord op rot skip cuw black) = rot ∧
      skipField (commandWord op rot skip cuw black) = skip ∧ cuwField (commandWord op rot skip cuw black) = cuw ∧
      blackField (commandWord op rot skip cuw black) = black ∧
      reservedField (commandWord op rot skip cuw black) = 0#17 := by
  simp only [← BitVec.toNat_inj, opField_toNat, rotField_toNat, skipField_toNat, cuwField_toNat, blackField_toNat,
    reservedField_toNat, commandWord_toNat, BitVec.toNat_ofNat]
  omega
end

/-- Every bit of a word belongs to one of its six fields. -/
theorem word_eq_iff_fields {w v : Word} :
    w = v ↔ opField w = opField v ∧ rotField w = rotField v ∧ skipField w = skipField v ∧ cuwField w = cuwField v ∧
      blackField w = blackField v ∧ reservedField w = reservedField v := by
  refine ⟨fun h => by simp [h], fun h => BitVec.eq_of_toNat_eq ?_⟩
  simp only [← BitVec.toNat_inj, opField_toNat, rotField_toNat, skipField_toNat, cuwField_toNat, blackField_toNat,
    reservedField_toNat] at h
  omega

/-- A word whose reserved bits are 0 is the command word with its fields. -/
theorem commandWord_fields {w : Word} (h : reservedField w = 0) :
    commandWord (opField w) (rotField w) (skipField w) (cuwField w) (blackField w) = w := by
  simp [word_eq_iff_fields, h]

/-! ## The field values of the operands (R82 to R84) -/

@[simp] theorem RotMode.ofField_field (mode : RotMode) : RotMode.ofField mode.field = mode := by
  cases mode <;> rfl

@[simp] theorem RotMode.field_ofField (rot : BitVec 2) : (RotMode.ofField rot).field = rot := by
  revert rot
  decide

@[simp] theorem CodeUnit.ofField_field (unit : CodeUnit) : CodeUnit.ofField unit.field = unit := by
  cases unit <;> rfl

@[simp] theorem CodeUnit.field_ofField (cuw : BitVec 1) : (CodeUnit.ofField cuw).field = cuw := by
  revert cuw
  decide

@[simp] theorem decide_ofBool_eq_one (skip : Bool) : decide (BitVec.ofBool skip = 1#1) = skip := by
  cases skip <;> rfl

@[simp] theorem ofBool_decide_eq_one (skip : BitVec 1) : BitVec.ofBool (decide (skip = 1#1)) = skip := by
  revert skip
  decide

theorem encode_ofRot (mode : RotMode) : encode (.ofRot mode) = commandWord 0x2 mode.field 0 0 0 := by
  cases mode <;> rfl

theorem wellFormed_ofRot (mode : RotMode) : (Instr.ofRot mode).wellFormed = true := by
  cases mode <;> rfl

theorem blackFits_iff {black : Nat} : blackFits black = true ↔ black < 128 := by
  simp [blackFits]

/-- A check that lets a command through found its condition true. -/
theorem ite_ok_eq_ok_iff {p : Prop} [Decidable p] {e : Illegal} {i j : Instr} :
    (if p then Except.ok j else Except.error e) = Except.ok i ↔ p ∧ j = i := by
  by_cases h : p <;> simp [h]

/-! ## The decoder, an equation per `OP` (R88) -/

theorem decode_of_reserved {w : Word} (h : reservedField w ≠ 0) : decode w = .error .reservedBits := if_neg h

theorem decode_of_fields {w : Word} (h : reservedField w = 0) :
    decode w = decodeFields (opField w) (rotField w) (skipField w) (cuwField w) (blackField w) := if_pos h

theorem decode_commandWord (op : BitVec 4) (rot : BitVec 2) (skip cuw : BitVec 1) (black : BitVec 7) :
    decode (commandWord op rot skip cuw black) = decodeFields op rot skip cuw black := by
  rw [decode_of_fields (by simp)]
  simp

section
variable (op : BitVec 4) (rot : BitVec 2) (skip cuw : BitVec 1) (black : BitVec 7)

theorem decodeFields_mono : decodeFields 1#4 rot skip cuw black =
    if rot = 0#2 ∧ cuw = 0#1 then .ok (.mono (decide (skip = 1#1)) black.toNat) else .error .unusedField := by
  simp [decodeFields, checkUnused]

theorem decodeFields_rot : decodeFields 2#4 rot skip cuw black =
    if skip = 0#1 ∧ cuw = 0#1 ∧ black = 0#7 then .ok (.ofRot (.ofField rot)) else .error .unusedField := by
  simp [decodeFields, checkUnused, and_assoc]

theorem decodeFields_monopack : decodeFields 3#4 rot skip cuw black =
    if cuw = 0#1 then .ok (.monopack (.ofField rot) (decide (skip = 1#1)) black.toNat) else .error .unusedField := by
  simp [decodeFields, checkUnused]

theorem decodeFields_crc : decodeFields 4#4 rot skip cuw black =
    if rot = 0#2 ∧ skip = 0#1 ∧ black = 0#7 then .ok (.crc (.ofField cuw)) else .error .unusedField := by
  simp [decodeFields, checkUnused, and_assoc]

theorem decodeFields_reserved (h1 : op ≠ 1#4) (h2 : op ≠ 2#4) (h3 : op ≠ 3#4) (h4 : op ≠ 4#4) :
    decodeFields op rot skip cuw black = .error .reservedOp := by
  exact (if_neg h1).trans <| (if_neg h2).trans <| (if_neg h3).trans <| if_neg h4

/-- What `decodeFields` accepts is well-formed, and the fields are those of its encoding (R87). -/
theorem decodeFields_eq_ok {i : Instr} (h : decodeFields op rot skip cuw black = .ok i) :
    i.wellFormed = true ∧ encode i = commandWord op rot skip cuw black := by
  by_cases h1 : op = 1#4
  · rw [h1, decodeFields_mono, ite_ok_eq_ok_iff] at h
    obtain ⟨⟨rfl, rfl⟩, rfl⟩ := h
    simp [Instr.wellFormed, blackFits_iff, encode, h1, black.isLt]
  by_cases h2 : op = 2#4
  · rw [h2, decodeFields_rot, ite_ok_eq_ok_iff] at h
    obtain ⟨⟨rfl, rfl, rfl⟩, rfl⟩ := h
    simp [wellFormed_ofRot, encode_ofRot, h2]
  by_cases h3 : op = 3#4
  · rw [h3, decodeFields_monopack, ite_ok_eq_ok_iff] at h
    obtain ⟨rfl, rfl⟩ := h
    simp [Instr.wellFormed, blackFits_iff, encode, h3, black.isLt]
  by_cases h4 : op = 4#4
  · rw [h4, decodeFields_crc, ite_ok_eq_ok_iff] at h
    obtain ⟨⟨rfl, rfl, rfl⟩, rfl⟩ := h
    simp [Instr.wellFormed, encode, h4]
  · rw [decodeFields_reserved op rot skip cuw black h1 h2 h3 h4] at h
    cases h
end

/-- Settles O1: each command's word has the fields that its `OP`'s equation reads back. -/
theorem decodeOfEncodeIsTheCommand : Obligations.DecodeOfEncodeIsTheCommand := by
  intro i hwf
  cases i with
  | mono skip black =>
    have hb : black % 128 = black := Nat.mod_eq_of_lt (blackFits_iff.mp hwf)
    simp [encode, decode_commandWord, decodeFields_mono, hb]
  | rotNone => rfl
  | rotCw => rfl
  | rotCcw => rfl
  | rot180 => rfl
  | monopack mode skip black =>
    have hb : black % 128 = black := Nat.mod_eq_of_lt (blackFits_iff.mp hwf)
    simp [encode, decode_commandWord, decodeFields_monopack, hb]
  | crc unit => simp [encode, decode_commandWord, decodeFields_crc]

theorem reservedField_of_decode {w : Word} {i : Instr} (h : decode w = .ok i) : reservedField w = 0 := by
  by_contra hres
  rw [decode_of_reserved hres] at h
  cases h

/-- Settles O2: a legal word has no reserved bit set, and its fields are those of its command's encoding. -/
theorem encodeOfDecodeIsTheWord : Obligations.EncodeOfDecodeIsTheWord := by
  intro w i h
  have hres := reservedField_of_decode h
  rw [decode_of_fields hres] at h
  obtain ⟨hwf, henc⟩ := decodeFields_eq_ok _ _ _ _ _ h
  exact ⟨hwf, henc.trans (commandWord_fields hres)⟩

/-- Settles O3: the numbers are the values of the fields, and each `OP` has its equation. -/
theorem decodeFollowsTheFieldRules : Obligations.DecodeFollowsTheFieldRules := by
  intro w op rot skip cuw black high hop hrot hskip hcuw hblack hhigh
  rw [← opField_toNat] at hop
  rw [← rotField_toNat] at hrot
  rw [← skipField_toNat] at hskip
  rw [← cuwField_toNat] at hcuw
  rw [← blackField_toNat] at hblack
  rw [← reservedField_toNat] at hhigh
  subst hop hrot hskip hcuw hblack hhigh
  refine ⟨fun hres => decode_of_reserved fun h => hres (by simp [h]), fun hres => ?_⟩
  rw [decode_of_fields (BitVec.eq_of_toNat_eq hres)]
  generalize opField w = op, rotField w = rot, skipField w = skip, cuwField w = cuw, blackField w = black
  simp only [BitVec.toNat_eq_nat, Nat.reducePow, Nat.reduceLT, true_and]
  refine ⟨?_, ?_, ?_, ?_, fun hop => ?_⟩
  · rintro rfl
    rw [decodeFields_mono]
    split
    · rfl
    · rfl
  · rintro rfl
    rw [decodeFields_rot]
    split
    · exact ⟨fun h => h ▸ rfl, fun h => h ▸ rfl, fun h => h ▸ rfl, fun h => h ▸ rfl⟩
    · rfl
  · rintro rfl
    rw [decodeFields_monopack]
    split
    · exact ⟨fun h => h ▸ rfl, fun h => h ▸ rfl, fun h => h ▸ rfl, fun h => h ▸ rfl⟩
    · rfl
  · rintro rfl
    rw [decodeFields_crc]
    split
    · exact ⟨fun h => h ▸ rfl, fun h => h ▸ rfl⟩
    · rfl
  · refine decodeFields_reserved _ _ _ _ _ ?_ ?_ ?_ ?_ <;> rintro rfl <;> revert hop <;> decide

/-! ## The opcode map (R89) -/

/-- A mask selects field by field. -/
theorem and_eq_iff_fields {w mask pattern : Word} :
    w &&& mask = pattern ↔
      opField w &&& opField mask = opField pattern ∧ rotField w &&& rotField mask = rotField pattern ∧
      skipField w &&& skipField mask = skipField pattern ∧ cuwField w &&& cuwField mask = cuwField pattern ∧
      blackField w &&& blackField mask = blackField pattern ∧
      reservedField w &&& reservedField mask = reservedField pattern := by
  simp [word_eq_iff_fields, opField, rotField, skipField, cuwField, blackField, reservedField, BitVec.extractLsb'_and]

/-- A field that the mask covers has the value of the pattern. -/
theorem field_eq_of_covered {n : Nat} {field mask pattern : BitVec n} (h : field &&& mask = pattern)
    (covered : mask = BitVec.allOnes n) : field = pattern := by
  simpa [covered] using h

section
variable {w : Word}

theorem decode_of_mono_row (h : w &&& 0xFFFF80BF = 0x00000001) :
    decode w = .ok (.mono (decide (skipField w = 1#1)) (blackField w).toNat) := by
  obtain ⟨hop, hrot, -, hcuw, -, hres⟩ := and_eq_iff_fields.mp h
  rw [decode_of_fields (field_eq_of_covered hres rfl), field_eq_of_covered hop rfl, field_eq_of_covered hrot rfl,
    field_eq_of_covered hcuw rfl]
  exact decodeFields_mono ..

theorem decode_of_monopack_row (h : w &&& 0xFFFF808F = 0x00000003) :
    decode w = .ok (.monopack (.ofField (rotField w)) (decide (skipField w = 1#1)) (blackField w).toNat) := by
  obtain ⟨hop, -, -, hcuw, -, hres⟩ := and_eq_iff_fields.mp h
  rw [decode_of_fields (field_eq_of_covered hres rfl), field_eq_of_covered hop rfl, field_eq_of_covered hcuw rfl]
  exact decodeFields_monopack ..

theorem decode_of_crc_row (h : w &&& 0xFFFFFF7F = 0x00000004) : decode w = .ok (.crc (.ofField (cuwField w))) := by
  obtain ⟨hop, hrot, hskip, -, hblack, hres⟩ := and_eq_iff_fields.mp h
  rw [decode_of_fields (field_eq_of_covered hres rfl), field_eq_of_covered hop rfl, field_eq_of_covered hrot rfl,
    field_eq_of_covered hskip rfl, field_eq_of_covered hblack rfl]
  exact decodeFields_crc ..

/-- The command of a row whose mask fixes every bit is that of its pattern. -/
theorem decode_of_full_row {pattern : Word} {i : Instr} (hi : decode pattern = .ok i) (h : w &&& 0xFFFFFFFF = pattern) :
    decode w = .ok i := by
  rwa [field_eq_of_covered h rfl]

theorem decode_of_row {r : OpcodeRow} (hr : r ∈ opcodeMap) (h : w &&& r.mask = r.pattern) :
    ∃ i, decode w = .ok i ∧ i.row = r := by
  simp only [opcodeMap, List.mem_cons, List.not_mem_nil, or_false] at hr
  rcases hr with rfl | rfl | rfl | rfl | rfl | rfl | rfl
  · exact ⟨_, decode_of_mono_row h, rfl⟩
  · exact ⟨.rotNone, decode_of_full_row rfl h, rfl⟩
  · exact ⟨.rotCw, decode_of_full_row rfl h, rfl⟩
  · exact ⟨.rotCcw, decode_of_full_row rfl h, rfl⟩
  · exact ⟨.rot180, decode_of_full_row rfl h, rfl⟩
  · exact ⟨_, decode_of_monopack_row h, rfl⟩
  · exact ⟨_, decode_of_crc_row h, rfl⟩

theorem row_mem_opcodeMap (i : Instr) : i.row ∈ opcodeMap := by
  cases i <;> simp [opcodeMap, Instr.row]

theorem encode_matches_row {i : Instr} (h : i.wellFormed = true) : i.row.matchesWord (encode i) = true := by
  cases i with
  | mono skip black => exact Laws.EncodesToRow.mono skip black h
  | rotNone => exact Laws.EncodesToRow.rotNone h
  | rotCw => exact Laws.EncodesToRow.rotCw h
  | rotCcw => exact Laws.EncodesToRow.rotCcw h
  | rot180 => exact Laws.EncodesToRow.rot180 h
  | monopack rot skip black => exact Laws.EncodesToRow.monopack rot skip black h
  | crc unit => exact Laws.EncodesToRow.crc unit h

/-- A legal word matches the row of its command, being that command's encoding. -/
theorem matches_row_of_decode {i : Instr} (h : decode w = .ok i) : w &&& i.row.mask = i.row.pattern := by
  obtain ⟨hwf, rfl⟩ := encodeOfDecodeIsTheWord w i h
  exact of_decide_eq_true (encode_matches_row hwf)
end

/-- Settles O4: a word that matches a row decodes to that row's command, and a legal word matches its command's row. -/
theorem commandIffWordMatchesItsRow : Obligations.CommandIffWordMatchesItsRow := by
  refine ⟨rfl, fun w => ⟨fun r hr => ⟨decode_of_row hr, ?_⟩, fun r hr q hq hwr hwq => ?_, fun none => ?_⟩⟩
  · rintro ⟨i, hi, rfl⟩
    exact matches_row_of_decode hi
  · obtain ⟨i, hi, rfl⟩ := decode_of_row hr hwr
    obtain ⟨j, hj, rfl⟩ := decode_of_row hq hwq
    obtain rfl : i = j := by simpa [hi] using hj
    rfl
  · cases h : decode w with
    | error e => exact ⟨e, rfl⟩
    | ok i => exact absurd (matches_row_of_decode h) (none _ (row_mem_opcodeMap i))

/-- Settles O5: each word is a closed term. -/
theorem listedWordsDecodeAsListed : Obligations.ListedWordsDecodeAsListed := by
  refine ⟨?_, ?_, ?_, ?_, ?_, ?_, ?_, ?_, ?_⟩ <;> decide

namespace Machine

/-! ## The threshold (R85) -/

theorem threshold_of_le {black : Nat} (h0 : 1 ≤ black) (h : black ≤ 99) : threshold black = .ok black := by
  rw [threshold, if_neg (by omega), if_pos h]

theorem threshold_of_gt {black : Nat} (h : 99 < black) : threshold black = .error .invalidThreshold := by
  rw [threshold, if_neg (by omega), if_neg (by omega)]

/-- The threshold is checked before anything else (60_exceptions.md R208). -/
theorem imageChecks_of_threshold_error {black : Nat} {c : ErrorCode} (h : threshold black = .error c) (n : Snapshot)
    (s : State) : imageChecks black n s = .error c := by
  simp [imageChecks, h]

/-- An error completion writes no memory and no result register (60_exceptions.md R210). -/
theorem raiseError_failed (c : ErrorCode) (s : State) : s.Failed c.code (raiseError c s) where
  shell := raiseError_sameShell c s
  engine := rfl
  errcode := rfl
  err := rfl
  done := rfl
  mem := rfl
  image := rfl
  crc := rfl

section
variable {s : State} {n : Snapshot} {acc : BitVec 16} {black : Nat} {c : ErrorCode}

theorem execMono_of_check_error (he : s.engine = .busy n acc) (skip : Bool) (h : imageChecks black n s = .error c) :
    exec (.mono skip black) s = .next (raiseError c s) := by
  have hplan : monoPlan skip black n s = .error c := by simp [monoPlan, h, Except.map]
  exact (withCommand_busy he _).trans (by rw [hplan, finishImage])

theorem execMonopack_of_check_error (he : s.engine = .busy n acc) (mode : RotMode) (skip : Bool)
    (h : imageChecks black n s = .error c) : exec (.monopack mode skip black) s = .next (raiseError c s) := by
  have hplan : monopackPlan mode skip black n s = .error c := by simp [monopackPlan, h, Except.map]
  exact (withCommand_busy he _).trans (by rw [hplan, finishImage])
end

/-- Settles O6: a value above 99 has no threshold, which is the first check of both commands. -/
theorem thresholdFieldIsReadAsStated : Obligations.ThresholdFieldIsReadAsStated := by
  refine ⟨rfl, fun b => threshold_of_le, fun s n acc mode skip b he hlow _ => ?_⟩
  have checks := imageChecks_of_threshold_error (threshold_of_gt (by omega : 99 < b)) n s
  exact ⟨⟨_, execMono_of_check_error he skip checks, raiseError_failed .invalidThreshold s⟩,
    ⟨_, execMonopack_of_check_error he mode skip checks, raiseError_failed .invalidThreshold s⟩⟩

end Machine

end Sys2Proof

/-! PROOFS. The text form of command words and the steps of a host program (30_encoding.md R92 to R94). -/

namespace Sys2Proof.Machine

/-! ## Decimal numbers (R92) -/

theorem decimalDigit_eq_digitChar (n : Nat) : decimalDigit n = Nat.digitChar (n % 10) := by
  have digits : ∀ d < 10, Char.ofNat (48 + d) = Nat.digitChar d := by decide
  exact digits _ (Nat.mod_lt n (by decide))

/-- The printed number is the library's decimal notation. -/
theorem decimal_eq_repr {n : Nat} (h : n < 100) : decimal n = (Nat.repr n).toList := by
  rw [Nat.toList_repr, decimal, Nat.toDigits_eq_if (by decide)]
  split
  · rw [decimalDigit_eq_digitChar, Nat.mod_eq_of_lt (by omega)]
  · rw [Nat.toDigits_of_lt_base (by omega), decimalDigit_eq_digitChar, decimalDigit_eq_digitChar,
      Nat.mod_eq_of_lt (by omega : n / 10 < 10)]
    rfl

theorem blackText_eq_repr {n : Nat} (h : n < 100) : blackText n = "black=".toList ++ (Nat.repr n).toList :=
  congrArg _ (decimal_eq_repr h)

theorem blackText_inj {m n : Nat} (hm : m < 100) (hn : n < 100) (h : blackText m = blackText n) : m = n := by
  rw [blackText_eq_repr hm, blackText_eq_repr hn] at h
  exact Nat.repr_injective (String.toList_inj.mp (List.append_cancel_left h))

/-- `black=<n>` is read back (R92). -/
theorem blackOf_blackText {n : Nat} (h0 : 1 ≤ n) (h : n ≤ 99) : blackOf (blackText n) = some n := by
  have listed : n ∈ (List.range 99).map (· + 1) := List.mem_map.mpr ⟨n - 1, List.mem_range.mpr (by omega), by omega⟩
  unfold blackOf
  generalize hlist : (List.range 99).map (· + 1) = candidates at listed ⊢
  cases hf : candidates.find? fun m => decide (blackText n = blackText m) with
  | none => exact absurd (decide_eq_true rfl) (List.find?_eq_none.mp hf n listed)
  | some m =>
    obtain ⟨k, hk, rfl⟩ := List.mem_map.mp (hlist ▸ List.mem_of_find?_eq_some hf)
    have hm : k < 99 := List.mem_range.mp hk
    have text : decide (blackText n = blackText (k + 1)) = true :=
      List.find?_some (p := fun m => decide (blackText n = blackText m)) hf
    rw [blackText_inj (by omega) (by omega) (of_decide_eq_true text)]

theorem space_notMem_blackText {n : Nat} (h : n < 100) : ' ' ∉ blackText n := by
  intro hmem
  rw [blackText_eq_repr h, Nat.toList_repr] at hmem
  rcases List.mem_append.mp hmem with hmem | hmem
  · revert hmem
    decide
  · exact absurd (Nat.isDigit_of_mem_toDigits (by decide) (by decide) hmem) (by decide)

/-! ## Words of a line -/

theorem splitWords_append_space {t : Text} (h : ' ' ∉ t) (rest : Text) :
    splitWords (t ++ ' ' :: rest) = t :: splitWords rest := by
  induction t with
  | nil => simp [splitWords]
  | cons c t ih =>
    obtain ⟨hc, ht⟩ : ' ' ≠ c ∧ ' ' ∉ t := by simpa using h
    simp [splitWords, hc.symm, ih ht]

theorem splitWords_of_noSpace {t : Text} (h : ' ' ∉ t) : splitWords t = [t] := by
  induction t with
  | nil => rfl
  | cons c t ih =>
    obtain ⟨hc, ht⟩ : ' ' ≠ c ∧ ' ' ∉ t := by simpa using h
    simp [splitWords, hc.symm, ih ht]

theorem assemble_mnemonic {m : Text} (h : ' ' ∉ m) : assemble m = (commandOf m []).map encode := by
  simp [assemble, splitWords_of_noSpace h]

theorem assemble_mnemonic_operands {m : Text} (h : ' ' ∉ m) (operands : Text) :
    assemble (m ++ ' ' :: operands) = (commandOf m (splitWords operands)).map encode := by
  simp [assemble, splitWords_append_space h]

/-! ## Mnemonics (R92, R93) -/

section
variable (t : Text) (operands : List Text)

theorem commandOf_mono : commandOf "mono".toList operands = (optionsOf operands).map fun o => .mono o.1 o.2 := rfl

theorem commandOf_rot : commandOf ("rot.".toList ++ t) operands =
    if operands = [] then (modeOf t).map Instr.ofRot else none := rfl

theorem commandOf_monopack : commandOf ("monopack.".toList ++ t) operands =
    (modeOf t).bind fun mode => (optionsOf operands).map fun o => .monopack mode o.1 o.2 := rfl

end

theorem modeOf_modeText (mode : RotMode) : modeOf (modeText mode) = some mode := by
  cases mode <;> rfl

section
variable {t t' : Text} (h : modeOf t = modeOf t')
include h

/-- Two names of one mode make the same command (R93). -/
theorem commandOf_rot_congr : commandOf ("rot.".toList ++ t) = commandOf ("rot.".toList ++ t') :=
  funext fun operands => by rw [commandOf_rot, commandOf_rot, h]

theorem commandOf_monopack_congr : commandOf ("monopack.".toList ++ t) = commandOf ("monopack.".toList ++ t') :=
  funext fun operands => by rw [commandOf_monopack, commandOf_monopack, h]
end

/-- Two mnemonics of one command assemble alike, whatever operands follow. -/
theorem assemble_congr {m m' : Text} (hm : ' ' ∉ m) (hm' : ' ' ∉ m') (h : commandOf m = commandOf m') :
    assemble m = assemble m' ∧
      ∀ operands : Text, assemble (m ++ ' ' :: operands) = assemble (m' ++ ' ' :: operands) :=
  ⟨by rw [assemble_mnemonic hm, assemble_mnemonic hm', h],
    fun operands => by rw [assemble_mnemonic_operands hm, assemble_mnemonic_operands hm', h]⟩

/-- Settles O8: each pair of mnemonics differs in the mode's name only, and both names give one mode. -/
theorem aliasesAssembleToTheirTargets : Obligations.AliasesAssembleToTheirTargets := by
  have right : modeOf "right".toList = modeOf "cw".toList := rfl
  have left : modeOf "left".toList = modeOf "ccw".toList := rfl
  have invert : modeOf "invert".toList = modeOf "180".toList := rfl
  refine ⟨?_, by decide, by decide, by decide, by decide, by decide, by decide, by decide⟩
  simp only [List.forall_mem_cons]
  refine ⟨?_, ?_, ?_, ?_, ?_, ?_, by simp⟩
  · exact assemble_congr (by decide) (by decide) (commandOf_rot_congr right)
  · exact assemble_congr (by decide) (by decide) (commandOf_rot_congr left)
  · exact assemble_congr (by decide) (by decide) (commandOf_rot_congr invert)
  · exact assemble_congr (by decide) (by decide) (commandOf_monopack_congr right)
  · exact assemble_congr (by decide) (by decide) (commandOf_monopack_congr left)
  · exact assemble_congr (by decide) (by decide) (commandOf_monopack_congr invert)

/-! ## Operands -/

/-- The words of the operands as printed (R92). -/
def optionWords (skip : Bool) (black : Nat) : List Text :=
  (if black = 0 then [] else [blackText black]) ++ (if skip then ["nocrop".toList] else [])

theorem splitWords_optionsText {m : Text} (h : ' ' ∉ m) (skip : Bool) {black : Nat} (hb : black ≤ 99) :
    splitWords (m ++ optionsText skip black) = m :: optionWords skip black := by
  have noSpace := space_notMem_blackText (show black < 100 by omega)
  have nocrop : " nocrop".toList = ' ' :: "nocrop".toList := rfl
  have nocropWord : splitWords "nocrop".toList = ["nocrop".toList] := rfl
  by_cases h0 : black = 0
  · cases skip with
    | false => simp [optionsText, optionWords, h0, splitWords_of_noSpace h]
    | true => simp only [optionsText, optionWords, h0, if_true, List.nil_append, nocrop, splitWords_append_space h,
        nocropWord]
  · cases skip with
    | false => simp [optionsText, optionWords, h0, splitWords_append_space h, splitWords_of_noSpace noSpace]
    | true => simp only [optionsText, optionWords, h0, if_true, if_false, List.cons_append, nocrop,
        splitWords_append_space h, splitWords_append_space noSpace, nocropWord, List.nil_append]

theorem blackText_ne_nocrop (n : Nat) : blackText n ≠ "nocrop".toList := by
  intro h
  have first : 'b' = 'n' := congrArg (fun t => t.headD ' ') h
  exact absurd first (by decide)

theorem optionsOf_optionWords (skip : Bool) {black : Nat} (hb : black ≤ 99) :
    optionsOf (optionWords skip black) = some (skip, black) := by
  by_cases h0 : black = 0
  · cases skip <;> simp [optionWords, optionsOf, h0]
  · have read := blackOf_blackText (Nat.one_le_iff_ne_zero.mpr h0) hb
    cases skip with
    | false =>
      have words : optionWords false black = [blackText black] := by simp [optionWords, h0]
      rw [words, optionsOf, if_neg (blackText_ne_nocrop black), read]
      rfl
    | true => simp [optionWords, optionsOf, h0, read]

theorem assemble_optionsText {m : Text} (h : ' ' ∉ m) (skip : Bool) {black : Nat} (hb : black ≤ 99) :
    assemble (m ++ optionsText skip black) = (commandOf m (optionWords skip black)).map encode := by
  simp [assemble, splitWords_optionsText h skip hb]

theorem space_notMem_monopack (mode : RotMode) : ' ' ∉ "monopack.".toList ++ modeText mode := by
  cases mode <;> decide

/-! ## Printing and assembling -/

theorem assemble_instrText {i : Instr} {text : Text} (h : instrText i = some text) : assemble text = some (encode i) := by
  cases i with
  | mono skip black =>
    obtain ⟨hb, ht⟩ := Option.ite_none_right_eq_some.mp h
    cases ht
    rw [assemble_optionsText (by decide) skip hb, commandOf_mono, optionsOf_optionWords skip hb]
    rfl
  | monopack mode skip black =>
    obtain ⟨hb, ht⟩ := Option.ite_none_right_eq_some.mp h
    cases ht
    rw [assemble_optionsText (space_notMem_monopack mode) skip hb, commandOf_monopack, modeOf_modeText,
      optionsOf_optionWords skip hb]
    rfl
  | crc unit => cases unit <;> cases h <;> decide
  | _ => cases h; decide

theorem exists_instrText {i : Instr} (hwf : i.wellFormed = true) (h : (blackField (encode i)).toNat ≤ 99) :
    ∃ text, instrText i = some text := by
  cases i with
  | mono skip black =>
    have hb : black ≤ 99 := by simpa [encode, Nat.mod_eq_of_lt (blackFits_iff.mp hwf)] using h
    exact ⟨_, if_pos hb⟩
  | monopack mode skip black =>
    have hb : black ≤ 99 := by simpa [encode, Nat.mod_eq_of_lt (blackFits_iff.mp hwf)] using h
    exact ⟨_, if_pos hb⟩
  | crc unit => cases unit <;> exact ⟨_, rfl⟩
  | _ => exact ⟨_, rfl⟩

theorem disassemble_legal {w : Word} {i : Instr} (h : decode w = .ok i) : disassemble w = instrText i := by
  simp [disassemble, h]

theorem disassemble_mono (skip : Bool) {black : Nat} (hb : black ≤ 99) :
    disassemble (encode (.mono skip black)) = some ("mono".toList ++ optionsText skip black) :=
  (disassemble_legal (decodeOfEncodeIsTheCommand (.mono skip black) (blackFits_iff.mpr (by omega)))).trans (if_pos hb)

theorem disassemble_monopack (mode : RotMode) (skip : Bool) {black : Nat} (hb : black ≤ 99) :
    disassemble (encode (.monopack mode skip black)) =
      some ("monopack.".toList ++ modeText mode ++ optionsText skip black) :=
  (disassemble_legal
    (decodeOfEncodeIsTheCommand (.monopack mode skip black) (blackFits_iff.mpr (by omega)))).trans (if_pos hb)

/-- The operands as printed, with the number in decimal (R92). -/
theorem optionsText_eq_toList (skip : Bool) {black : Nat} (hb : black ≤ 99) : optionsText skip black =
    ((if black = 0 then "" else " black=" ++ Nat.repr black) ++ (if skip then " nocrop" else "")).toList := by
  have number : ' ' :: blackText black = (" black=" ++ Nat.repr black).toList :=
    (congrArg _ (blackText_eq_repr (by omega))).trans (String.toList_append (s := " black=")).symm
  refine (congrArg₂ (· ++ ·) ?_ ?_).trans String.toList_append.symm
  · split
    · rfl
    · exact number
  · cases skip <;> rfl

/-! ## Illegal words -/

/-- A hex digit is the character of its value (R92). -/
theorem hexChar_eq (n : Nat) : some (hexChar n) = "0123456789abcdef".toList[n % 16]? := by
  have digits : ∀ d < 16, some (if d ≤ 9 then Char.ofNat (48 + d) else Char.ofNat (87 + d)) =
      "0123456789abcdef".toList[d]? := by decide
  exact digits _ (Nat.mod_lt n (by decide))

theorem hex8_getElem? (w : Word) {k : Nat} (hk : k < 8) :
    (hex8 w)[k]? = "0123456789abcdef".toList[w.toNat / 16 ^ (7 - k) % 16]? := by
  have place : ∀ k < 8, [7, 6, 5, 4, 3, 2, 1, 0][k]? = some (7 - k) := by decide
  rw [hex8, List.getElem?_map, place k hk, ← hexChar_eq]
  rfl

/-- Settles O7: a printed text is read back word by word, and its number is printed in decimal. -/
theorem printedTextAssemblesToTheSameWord : Obligations.PrintedTextAssemblesToTheSameWord := by
  refine ⟨fun w i text hd ht => ?_, fun w i hd hb => ?_, by decide, ?_, fun w e hd => ?_⟩
  · obtain ⟨-, rfl⟩ := encodeOfDecodeIsTheWord w i hd
    exact assemble_instrText ((disassemble_legal hd).symm.trans ht)
  · obtain ⟨hwf, rfl⟩ := encodeOfDecodeIsTheWord w i hd
    rw [← blackField_toNat] at hb
    obtain ⟨text, ht⟩ := exists_instrText hwf hb
    exact ⟨text, (disassemble_legal hd).trans ht, assemble_instrText ht⟩
  · rintro skip b _ hb rfl
    have line (m : String) : some (m.toList ++ optionsText skip b) = some (m ++ _).toList :=
      congrArg some ((congrArg _ (optionsText_eq_toList skip hb)).trans String.toList_append.symm)
    exact ⟨(disassemble_mono skip hb).trans (line "mono"),
      (disassemble_monopack .none skip hb).trans (line "monopack.none"),
      (disassemble_monopack .cw skip hb).trans (line "monopack.cw"),
      (disassemble_monopack .ccw skip hb).trans (line "monopack.ccw"),
      (disassemble_monopack .half skip hb).trans (line "monopack.180")⟩
  · exact ⟨hex8 w, by simp [disassemble, hd], rfl, fun k hk => hex8_getElem? w hk⟩

/-! ## Host programs (R94) -/

/-- The register block is reached at `REG_BASE` plus the register's offset (20_memory.md R61). -/
theorem target_regAddr (cfg : Config) (r : Reg) : target cfg (regAddr cfg r) = .register r.offset := by
  have inBlock : r.offset < 256 := by cases r <;> decide
  simp [target, regAddr, inBlock]

section
variable {s t : State} {rest : List Input}

theorem step_wr32 (r : Reg) (v : Word) (hr : s.inReset = false)
    (hi : s.inputs = HostStep.inputs s.cfg (.wr32 r v) ++ rest) :
    step s = .next ((writeReg r v (s.setInputs rest)).setResponse .ack) :=
  step_write_offset r v hr (target_regAddr s.cfg r) hi

theorem step_rd32 (r : Reg) (hr : s.inReset = false) (hi : s.inputs = HostStep.inputs s.cfg (.rd32 r) ++ rest) :
    step s = .next ((s.setInputs rest).setResponse (.data (readReg r s))) := by
  have ha : r.offset % 4 = 0 := by cases r <;> rfl
  rw [step_read_register (rest := rest) hr (target_regAddr s.cfg r) ha hi, readOffset_offset, readReg_setInputs]

theorem step_cmd (i : Instr) (hr : s.inReset = false) (he : s.engine = .idle)
    (hi : s.inputs = HostStep.inputs s.cfg (.cmd i) ++ rest) :
    step s = .next ((acceptCommand (encode i) (s.setInputs rest)).setResponse .ack) := by
  rw [step_write_offset (rest := rest) .cmd (encode i) hr (target_regAddr s.cfg .cmd) hi, writeReg,
    writeCommand_idle (encode i) (s := s.setInputs rest) he]

/-- A one-byte access carries the byte itself. -/
theorem memWrite_byte (s : State) (a : Nat) (b : Byte) : s.memWrite a 1 (b.setWidth 32).toNat = s.storeBytes a [b] := by
  have low : BitVec.ofNat 8 (b.setWidth 32).toNat = b := by
    apply BitVec.eq_of_toNat_eq
    simp
    omega
  simp only [State.memWrite, leBytes, low]

/-- `wr8` stores its first byte, and the bytes after it wait. -/
theorem step_wr8 {a : Nat} (b : Byte) (bs : List Byte) (hr : s.inReset = false) (he : s.engine = .idle)
    (ht : target s.cfg (s.cfg.bufBase + a) = .buffer a) (ha : a < s.cfg.memBytes)
    (hi : s.inputs = HostStep.inputs s.cfg (.wr8 a (b :: bs)) ++ rest) :
    step s = .next (((s.setInputs (HostStep.inputs s.cfg (.wr8 (a + 1) bs) ++ rest)).storeBytes a [b]).setResponse
      .ack) := by
  rw [← memWrite_byte]
  exact step_write_window (size := .b1) (b.setWidth 32) hr he ht (windowAccessOk_iff.mpr ⟨Nat.mod_one a, ha⟩) hi

theorem step_poll_match {r : Reg} {mask v : Word} (hr : s.inReset = false)
    (hi : s.inputs = HostStep.inputs s.cfg (.poll r mask v) ++ rest) (hm : readReg r s &&& mask = v) :
    step s = .next ((s.setInputs rest).setResponse (.data (readReg r s))) := by
  simp [step, nextMove_cons hi, inputMove, pollMove, hr, hm]

theorem step_poll_miss {r : Reg} {mask v : Word} (hr : s.inReset = false)
    (hi : s.inputs = HostStep.inputs s.cfg (.poll r mask v) ++ rest) (hm : readReg r s &&& mask ≠ v) :
    step s = engineMove ((s.setInputs (.poll r mask v :: rest)).setResponse (.data (readReg r s))) := by
  simp [step, nextMove_cons hi, inputMove, pollMove, hr, hm]
  rfl

/-- A completion ends the busy phase and takes no move of the host (10_state.md R47). -/
theorem Completion.engine_inputs {n : Snapshot} (h : Completion n s t) : t.engine = .idle ∧ t.inputs = s.inputs := by
  cases h <;> exact ⟨rfl, rfl⟩

/-- With a command in flight and reset released, the engine's move is its completion. -/
theorem engineMove_completes (hr : s.inReset = false) (hb : s.busy = true) :
    ∃ n t, engineMove s = .next t ∧ Completion n s t := by
  rcases engineMove_cases s with ⟨-, h | h⟩ | ⟨n, acc, -, he, ⟨e, -, hm⟩ | ⟨i, -, hm⟩⟩
  · simp [hr] at h
  · simp [State.busy, h] at hb
  · exact ⟨n, _, hm, .error _⟩
  · obtain ⟨t, ht⟩ := exec_busy he i
    obtain ⟨n', -, -, hc⟩ := exec_completion ht
    exact ⟨n', t, hm.trans ht, hc⟩
end

/-- Settles O26: each step of a program is one move of the host, or the engine's while a poll waits. -/
theorem hostProgramStepsDoWhatTheySay : Obligations.HostProgramStepsDoWhatTheySay := by
  intro s rest hr
  refine ⟨fun r v => step_wr32 r v hr, fun r => step_rd32 r hr,
    fun i he hi => ⟨_, step_cmd i hr he hi, rfl, rfl, rfl⟩, fun a b bs he ht ha hi => ?_,
    fun r mask v hi => ⟨step_poll_match hr hi, fun hm hb => ?_⟩⟩
  · exact ⟨_, step_wr8 b bs hr he ht ha hi, State.storeBytes_byteAt_inside _ a [b] (k := 0) Nat.zero_lt_one,
      fun _ hc => State.storeBytes_byteAt_outside _ a [b] hc, rfl⟩
  · obtain ⟨n, t, hmove, hc⟩ :=
      engineMove_completes (s := (s.setInputs (.poll r mask v :: rest)).setResponse (.data (readReg r s))) hr hb
    obtain ⟨hidle, hinputs⟩ := hc.engine_inputs
    exact ⟨t, (step_poll_miss hr hi hm).trans hmove, by simp [State.busy, hidle], hinputs.trans hi.symm, hc.done_or_err⟩

end Sys2Proof.Machine

/-! PROOFS. The family of 40_monochromizer.md: the classification of a pixel, the crop box as the bounds of the dark
pixels, the success of an image command, and the statements about them. -/

namespace Sys2Proof.Machine

/-! ## Row-major order (20_memory.md R64, R65) -/

section
variable {i j w h : Nat}

theorem row_major_lt (hi : i < w) (hj : j < h) : j * w + i < w * h :=
  calc j * w + i < j * w + w := Nat.add_lt_add_left hi _
    _ = (j + 1) * w := (Nat.succ_mul j w).symm
    _ ≤ h * w := Nat.mul_le_mul_right w hj
    _ = w * h := Nat.mul_comm h w

theorem row_major_mod (hi : i < w) : (j * w + i) % w = i := by
  rw [Nat.mul_add_mod', Nat.mod_eq_of_lt hi]

theorem row_major_div (hi : i < w) : (j * w + i) / w = j := by
  rw [Nat.mul_comm, Nat.mul_add_div (Nat.zero_lt_of_lt hi), Nat.div_eq_of_lt hi, Nat.add_zero]
end

/-! ## Classification (R100 to R103) -/

theorem dark_iff (p : Nat) (q : Pixel) : dark p q = true ↔ blend q ≤ cutoff p := by
  simp [dark]

theorem dark_eq_false_iff (p : Nat) (q : Pixel) : dark p q = false ↔ cutoff p < blend q := by
  simp [dark]

theorem luma_le (q : Pixel) : luma q ≤ 25500 := by
  have := q.r.isLt
  have := q.g.isLt
  have := q.b.isLt
  simp only [luma]
  omega

/-- The blended gray is at most 765, here times 25500 (R101, R102). -/
theorem blend_le (q : Pixel) : blend q ≤ 19507500 := by
  have hA := q.a.isLt
  have hY : luma q * q.a.toNat ≤ 25500 * q.a.toNat := Nat.mul_le_mul_right _ (luma_le q)
  simp only [blend]
  omega

/-- The blend of R101 over the rationals is `lhs / 25500` (R102). -/
theorem blended_channels_eq_blend_div (q : Pixel) (alpha : ℚ) (h : alpha = (q.a.toNat : ℚ) / 255) :
    ((q.r.toNat : ℚ) * (30 / 100) * alpha + 255 * (1 - alpha)) +
      ((q.g.toNat : ℚ) * (59 / 100) * alpha + 255 * (1 - alpha)) +
      ((q.b.toNat : ℚ) * (11 / 100) * alpha + 255 * (1 - alpha)) = (blend q : ℚ) / 25500 := by
  have hA : q.a.toNat ≤ 255 := Nat.le_of_lt_succ q.a.isLt
  simp only [blend, luma, h]
  push_cast [Nat.cast_sub hA]
  ring

/-- Settles O38: gray and cutoff are the two sides of the integer test, both over 25500. -/
theorem darkIffGrayAtMostCutoff : Obligations.DarkIffGrayAtMostCutoff := by
  intro q p alpha gray cut halpha hcut hgray
  have gray_eq : gray = (blend q : ℚ) / 25500 := hgray.trans (blended_channels_eq_blend_div q alpha halpha)
  have cut_eq : cut = (cutoff p : ℚ) / 25500 := by
    rw [hcut, cutoff]
    push_cast
    ring
  have blend_bound : (blend q : ℚ) ≤ 19507500 := mod_cast blend_le q
  refine ⟨?_, ?_, ?_⟩
  · rw [gray_eq]
    positivity
  · rw [gray_eq]
    linarith
  · rw [dark_iff, gray_eq, cut_eq, div_le_div_iff_of_pos_right (by norm_num), Nat.cast_le]

theorem blend_transparent {q : Pixel} (h : q.a = 0) : blend q = 19507500 := by
  simp [blend, h]

theorem blend_opaque {q : Pixel} (h : q.a = 255) : blend q = 255 * luma q := by
  simp [blend, h, Nat.mul_comm]

/-- A black pixel's gray is white's share of the blend alone (R103). -/
theorem blend_black (a : Byte) : blend ⟨0, 0, 0, a⟩ = 76500 * (255 - a.toNat) := by
  simp [blend, luma]

theorem dark_opaque_iff {q : Pixel} (h : q.a = 255) (p : Nat) : dark p q = true ↔ luma q ≤ 255 * p := by
  rw [dark_iff, blend_opaque h, cutoff]
  omega

/-- Settles O39: with `blend` known for transparent, opaque and black pixels, each clause is a comparison of numbers. -/
theorem classificationConsequences : Obligations.ClassificationConsequences := by
  intro q p hp hp'
  refine ⟨fun transparent => ?_, fun isOpaque => dark_opaque_iff isOpaque p, fun white => ?_, fun black => ?_,
    fun black ha => ?_, fun black => ?_, fun black hp => ?_⟩
  · rw [dark_eq_false_iff, blend_transparent transparent, cutoff]
    omega
  · subst white
    rw [dark_eq_false_iff, blend_opaque rfl, cutoff, show luma ⟨255, 255, 255, 255⟩ = 25500 from rfl]
    omega
  · subst black
    exact (dark_opaque_iff rfl p).mpr (Nat.zero_le _)
  · rw [black, dark_eq_false_iff, blend_black, cutoff]
    omega
  · subst black
    rw [dark_iff, blend_black, cutoff, show (254 : Byte).toNat = 254 from rfl]
    omega
  · subst black hp
    rw [dark_iff, blend_black]
    decide

/-! ## The crop box (R105 to R107) -/

/-- The set `D` of R105: the dark pixels of a `W × H` image. -/
def darkSet (W H : Nat) (isDark : Nat → Nat → Bool) : Set (Nat × Nat) :=
  {q | q.1 < W ∧ q.2 < H ∧ isDark q.1 q.2 = true}

section
variable {W H : Nat} {isDark : Nat → Nat → Bool}

/-- The row-major scan meets exactly the dark pixels. -/
theorem mem_darkPixels {q : Nat × Nat} : q ∈ darkPixels W H isDark ↔ q ∈ darkSet W H isDark := by
  simp only [darkPixels, List.mem_filter, List.mem_map, List.mem_range]
  constructor
  · rintro ⟨⟨i, hi, rfl⟩, hdark⟩
    have hW : 0 < W := Nat.pos_of_mul_pos_right (Nat.zero_lt_of_lt hi)
    exact ⟨Nat.mod_lt i hW, Nat.div_lt_of_lt_mul hi, hdark⟩
  · rintro ⟨hx, hy, hdark⟩
    exact ⟨⟨q.2 * W + q.1, row_major_lt hx hy, by rw [row_major_mod hx, row_major_div hx]⟩, hdark⟩

theorem darkPixels_eq_nil_iff : darkPixels W H isDark = [] ↔ darkSet W H isDark = ∅ := by
  simp only [List.eq_nil_iff_forall_not_mem, Set.eq_empty_iff_forall_notMem, mem_darkPixels]

theorem setOf_mem_map_darkPixels (f : Nat × Nat → Nat) :
    {v | v ∈ (darkPixels W H isDark).map f} = f '' darkSet W H isDark := by
  ext v
  simp only [Set.mem_ofPred_eq, List.mem_map, Set.mem_image, mem_darkPixels]

theorem isLeast_foldl_min (a : Nat) (l : List Nat) : IsLeast {v | v ∈ a :: l} (l.foldl min a) :=
  List.min?_eq_some_iff.mp List.min?_cons'

theorem isGreatest_foldl_max (a : Nat) (l : List Nat) : IsGreatest {v | v ∈ a :: l} (l.foldl max a) :=
  List.max?_eq_some_iff.mp List.max?_cons'

theorem cropBox_of_no_dark (h : darkSet W H isDark = ∅) : cropBox W H isDark = { x := 0, y := 0, w := 0, h := 0 } := by
  simp [cropBox, darkPixels_eq_nil_iff.mpr h]

/-- The sides of the crop box are the extremes of the dark pixels' coordinates (R105). -/
theorem cropBox_of_dark (h : darkSet W H isDark ≠ ∅) :
    ∃ x0 x1 y0 y1,
      IsLeast (Prod.fst '' darkSet W H isDark) x0 ∧ IsGreatest (Prod.fst '' darkSet W H isDark) x1 ∧
      IsLeast (Prod.snd '' darkSet W H isDark) y0 ∧ IsGreatest (Prod.snd '' darkSet W H isDark) y1 ∧
      cropBox W H isDark = { x := x0, y := y0, w := x1 - x0 + 1, h := y1 - y0 + 1 } := by
  obtain ⟨d, ds, scan⟩ := List.exists_cons_of_ne_nil (mt darkPixels_eq_nil_iff.mp h)
  simp only [← setOf_mem_map_darkPixels, scan, List.map_cons]
  exact ⟨_, _, _, _, isLeast_foldl_min _ _, isGreatest_foldl_max _ _, isLeast_foldl_min _ _, isGreatest_foldl_max _ _,
    by simp only [cropBox, scan]⟩

@[simp] theorem chooseBox_skip : chooseBox true W H isDark = { x := 0, y := 0, w := W, h := H } := rfl

@[simp] theorem chooseBox_crop : chooseBox false W H isDark = cropBox W H isDark := rfl

/-- The box of a command lies in the source image. -/
theorem chooseBox_within (skip : Bool) (W H : Nat) (isDark : Nat → Nat → Bool) :
    (chooseBox skip W H isDark).x + (chooseBox skip W H isDark).w ≤ W ∧
      (chooseBox skip W H isDark).y + (chooseBox skip W H isDark).h ≤ H := by
  cases skip with
  | true => simp
  | false =>
    by_cases h : darkSet W H isDark = ∅
    · simp [cropBox_of_no_dark h]
    · obtain ⟨x0, x1, y0, y1, left, right, top, bottom, hbox⟩ := cropBox_of_dark h
      obtain ⟨q, ⟨hx1, -, -⟩, rfl⟩ := right.1
      obtain ⟨r, ⟨-, hy1, -⟩, rfl⟩ := bottom.1
      have hx := left.2 right.1
      have hy := top.2 bottom.1
      simp only [chooseBox_crop, hbox]
      omega
end

/-- Settles O40: the sides are the least and greatest coordinates of the dark pixels. -/
theorem cropBoxIsTheBoundingBoxOfDarkPixels : Obligations.CropBoxIsTheBoundingBoxOfDarkPixels := by
  rintro W H isDark ⟨x, y, hx, hy, hdark⟩
  have nonempty : darkSet W H isDark ≠ ∅ := Set.Nonempty.ne_empty ⟨(x, y), hx, hy, hdark⟩
  obtain ⟨x0, x1, y0, y1, left, right, top, bottom, hbox⟩ := cropBox_of_dark nonempty
  have x0_le_x1 := left.2 right.1
  have y0_le_y1 := top.2 bottom.1
  obtain ⟨⟨l, hl, rfl⟩, leftmost⟩ := left
  obtain ⟨⟨r, hr, rfl⟩, rightmost⟩ := right
  obtain ⟨⟨t, ht, rfl⟩, topmost⟩ := top
  obtain ⟨⟨b, hb, rfl⟩, bottommost⟩ := bottom
  refine ⟨l.1, r.1, t.2, b.2, x0_le_x1, hr.1, y0_le_y1, hb.2.1, hbox, fun x y hx hy hd => ?_,
    ⟨l.2, hl.2⟩, ⟨r.2, hr.2⟩, ⟨t.1, ht.1, ht.2.2⟩, ⟨b.1, hb.1, hb.2.2⟩⟩
  have inside : (x, y) ∈ darkSet W H isDark := ⟨hx, hy, hd⟩
  exact ⟨leftmost ⟨_, inside, rfl⟩, rightmost ⟨_, inside, rfl⟩, topmost ⟨_, inside, rfl⟩, bottommost ⟨_, inside, rfl⟩⟩

/-- Settles O41: no dark pixel means an empty scan, and a skipped crop makes none. -/
theorem boxWithoutDarkPixelsOrCropping : Obligations.BoxWithoutDarkPixelsOrCropping := by
  refine fun W H isDark => ⟨fun light => cropBox_of_no_dark ?_, chooseBox_skip⟩
  refine Set.eq_empty_iff_forall_notMem.mpr fun q ⟨hx, hy, hd⟩ => ?_
  simp [light q.1 q.2 hx hy] at hd

/-! ## The source checks of `MONO` and `MONOPACK` (R104, R110) -/

section
variable {s : State} {n : Snapshot} {black p H : Nat}

theorem imageHeight_of_whole_rows (hW : 0 < n.ops.width.toNat)
    (hL : n.ops.srcLen.toNat = 4 * n.ops.width.toNat * H) : imageHeight n = .ok H := by
  simp [imageHeight, hL, hW.ne']

theorem imageChecks_ok (hp : threshold black = .ok p) (hW : 0 < n.ops.width.toNat)
    (hL : n.ops.srcLen.toNat = 4 * n.ops.width.toNat * H) (hsrc : n.pixelRange.valid s.cfg = true) :
    imageChecks black n s = .ok (p, H) := by
  simp [imageChecks, hp, imageHeight_of_whole_rows hW hL, hsrc]

/-- The effective threshold is 50 for a `BLACK` field of 0 and the field itself up to 99 (30_encoding.md R85). -/
theorem threshold_ok (h : (black = 0 ∧ p = 50) ∨ (1 ≤ black ∧ black ≤ 99 ∧ p = black)) : threshold black = .ok p := by
  rcases h with ⟨rfl, rfl⟩ | ⟨h0, h99, rfl⟩
  · rfl
  · exact threshold_of_le h0 h99

end

/-! ## The success of an image command (R110; 60_exceptions.md R214) -/

/-- A plan whose output range is valid and apart from the source is written. -/
theorem finishImage_success {n : Snapshot} {src : Range} {plan : Except ErrorCode ImagePlan} {s : State} {p : ImagePlan}
    (hplan : plan = .ok p) (hdst : ({ base := n.ops.dstAddr.toNat, len := p.len } : Range).valid s.cfg = true)
    (happart : src.overlaps { base := n.ops.dstAddr.toNat, len := p.len } = false) :
    finishImage n src plan s = imageSuccess n p s := by
  simp [finishImage, hplan, hdst, happart, imageSuccess]

theorem imageSuccess_succeeded (n : Snapshot) (p : ImagePlan) (s : State) : s.Succeeded (imageSuccess n p s) where
  shell := imageSuccess_sameShell n p s
  engine := rfl
  done := rfl
  errcode := rfl
  err := rfl

/-- The result registers hold the plan's numbers when these fit in 32 bits (10_state.md R38 to R42). -/
theorem imageSuccess_imageIs {n : Snapshot} {p : ImagePlan} {s : State} (hx : p.boxX < 2 ^ 32) (hy : p.boxY < 2 ^ 32)
    (hmw : p.maskW < 2 ^ 32) (hmh : p.maskH < 2 ^ 32) (how : p.outW < 2 ^ 32) (hoh : p.outH < 2 ^ 32)
    (hstride : p.stride < 2 ^ 32) (hlen : p.len < 2 ^ 32) :
    (imageSuccess n p s).ImageIs p.boxX p.boxY p.maskW p.maskH p.outW p.outH p.stride where
  boxX := Nat.mod_eq_of_lt hx
  boxY := Nat.mod_eq_of_lt hy
  maskW := Nat.mod_eq_of_lt hmw
  maskH := Nat.mod_eq_of_lt hmh
  outW := Nat.mod_eq_of_lt how
  outH := Nat.mod_eq_of_lt hoh
  outStride := Nat.mod_eq_of_lt hstride
  outLen := Nat.mod_eq_of_lt hlen

/-- A success leaves byte `k` of its plan at `DST_ADDR + k`. -/
theorem imageSuccess_byteAt_inside (n : Snapshot) (p : ImagePlan) (s : State) {k : Nat} (hk : k < p.bytes.length) :
    (imageSuccess n p s).byteAt (n.ops.dstAddr.toNat + k) = p.bytes[k] :=
  State.storeBytes_byteAt_inside s _ _ hk

/-! ## `MONO` (R108, R110, R111) -/

/-- Byte `j·w + i` of the mask is the pixel `(i, j)`. -/
theorem maskBytes_getElem {w h i j : Nat} (hi : i < w) (m : Nat → Nat → Bool)
    (hk : j * w + i < (maskBytes w h m).length) : (maskBytes w h m)[j * w + i] = if m i j then 0x01 else 0x00 := by
  simp [maskBytes, row_major_mod hi, row_major_div hi]

section
variable {s : State} {n : Snapshot} {acc : BitVec 16} {skip : Bool} {black p H : Nat} {box : Box}

/-- `MONO` with no failing check ends in the success of its mask (R110). -/
theorem execMono_success (he : s.engine = .busy n acc) (hchecks : imageChecks black n s = .ok (p, H))
    (hbox : box = chooseBox skip n.ops.width.toNat H (s.darkAt n p))
    (hdst : ({ base := n.ops.dstAddr.toNat, len := box.w * box.h } : Range).valid s.cfg = true)
    (happart : n.pixelRange.overlaps { base := n.ops.dstAddr.toNat, len := box.w * box.h } = false) :
    exec (.mono skip black) s = .next (imageSuccess n (maskPlan box (s.darkAt n p)) s) := by
  have hplan : monoPlan skip black n s = .ok (maskPlan box (s.darkAt n p)) := by
    rw [monoPlan, hchecks, hbox]
    rfl
  exact (withCommand_busy he _).trans (congrArg _ (finishImage_success hplan hdst happart))

/-- The mask stands at `DST_ADDR` in row-major order (R111). -/
theorem imageSuccess_maskPlan_byteAt (s : State) (n : Snapshot) (isDark : Nat → Nat → Bool) {i j : Nat} (hi : i < box.w)
    (hj : j < box.h) : (imageSuccess n (maskPlan box isDark) s).byteAt (n.ops.dstAddr.toNat + j * box.w + i) =
      if isDark (box.x + i) (box.y + j) then 0x01 else 0x00 := by
  have hk : j * box.w + i < (maskBytes box.w box.h (cropped box isDark)).length := by
    simpa using row_major_lt hi hj
  rw [Nat.add_assoc]
  exact (imageSuccess_byteAt_inside n (maskPlan box isDark) s hk).trans (maskBytes_getElem hi _ hk)
end

/-- Settles O42: the box lies in the source image, whose sides and size fit in 32 bits. -/
theorem monoWritesTheCroppedMask : Obligations.MonoWritesTheCroppedMask := by
  rintro s n acc skip black p W H box he hp rfl hW hL hsrc hbox hdst happart
  have hchecks := imageChecks_ok (threshold_ok hp) hW hL hsrc
  have hH : H ≤ n.ops.srcLen.toNat := hL ▸ Nat.le_mul_of_pos_left H (by omega)
  obtain ⟨hx, hy⟩ : box.x + box.w ≤ n.ops.width.toNat ∧ box.y + box.h ≤ H := hbox ▸ chooseBox_within ..
  have hlen : box.w * box.h ≤ 2 ^ 31 := Range.valid_len_le hdst
  have hwidth := n.ops.width.isLt
  have hsrcLen := n.ops.srcLen.isLt
  refine ⟨_, execMono_success he hchecks hbox hdst happart, imageSuccess_succeeded n _ s, rfl, ?_,
    fun i j hi hj => imageSuccess_maskPlan_byteAt s n _ hi hj, ?_⟩
  · apply imageSuccess_imageIs <;> simp only [maskPlan, ImagePlan.len] <;> omega
  · simpa only [maskPlan, maskBytes_length] using imageSuccess_sameOutside n (maskPlan box (s.darkAt n p)) s

end Sys2Proof.Machine

/-! PROOFS. The family of 41_rotator.md: the bits of a packed bitmap, the streaming scan, rotations inside a frame, the
count of dark pixels, the success of a rotation, and the statements about them. -/

namespace Sys2Proof.Machine

/-! ## The bits of a packed bitmap (R130) -/

theorem packTerm_eq_mul (w : Nat) (pix : Nat → Nat → Bool) (r k b : Nat) :
    packTerm w pix r k b = 2 ^ (7 - b) * (decide (8 * k + b < w) && pix (8 * k + b) r).toNat := by
  rw [packTerm]
  cases decide (8 * k + b < w) && pix (8 * k + b) r <;> simp

/-- A packed byte as a binary number: bit `i` is the pixel of column `8k + (7 - i)`, and 0 beyond the row's end. -/
theorem sum_packTerm_eq_ofBits (w : Nat) (pix : Nat → Nat → Bool) (r k : Nat) :
    ((List.range 8).map (packTerm w pix r k)).sum =
      Nat.ofBits fun i : Fin 8 => decide (8 * k + (7 - i) < w) && pix (8 * k + (7 - i)) r := by
  simp [packTerm_eq_mul, List.range_succ, Nat.ofBits_succ]
  omega

/-- Bit `7 - b` of a packed byte is its pixel `b`: the most significant bit comes first. -/
theorem packByte_getLsbD (w : Nat) (pix : Nat → Nat → Bool) (r k : Nat) {b : Nat} (hb : b < 8) :
    (packByte w pix r k).getLsbD (7 - b) = (decide (8 * k + b < w) && pix (8 * k + b) r) := by
  have reflect : 7 - (7 - b) = b := by omega
  have inByte : 7 - b < 8 := by omega
  rw [packByte, sum_packTerm_eq_ofBits, BitVec.getLsbD_ofNat, Nat.testBit_ofBits_lt _ _ inByte]
  simp only [inByte, reflect, decide_true, Bool.true_and]

/-- Bit `7 - c mod 8` of byte `c / 8` of a packed row is the pixel of column `c`. -/
theorem packByte_getLsbD_column (w : Nat) (pix : Nat → Nat → Bool) (r c : Nat) :
    (packByte w pix r (c / 8)).getLsbD (7 - c % 8) = (decide (c < w) && pix c r) := by
  rw [packByte_getLsbD _ _ _ _ (Nat.mod_lt c (by decide)), Nat.div_add_mod]

theorem lt_eight_mul_packStride {w c : Nat} (hc : c < w) : c < 8 * packStride w := by
  simp only [packStride]
  omega

section
variable {w h c r : Nat} {pix : Nat → Nat → Bool}

/-- Byte `r·S + k` of the packed bitmap is byte `k` of row `r`: every row starts a byte of its own. -/
theorem pack_getElem? {k : Nat} (hr : r < h) (hk : k < packStride w) :
    (pack w h pix)[r * packStride w + k]? = some (packByte w pix r k) := by
  simp [pack, row_major_lt hk hr, row_major_div hk, row_major_mod hk]

/-- Unpacking a packed bitmap gives back the pixels, and 0 in the tail of a row. -/
theorem unpackPixel_pack (hr : r < h) (hc : c < 8 * packStride w) :
    unpackPixel w (pack w h pix) c r = (decide (c < w) && pix c r) := by
  have stored : (pack w h pix)[r * ((w + 7) / 8) + c / 8]? = some (packByte w pix r (c / 8)) :=
    pack_getElem? hr (Nat.div_lt_of_lt_mul hc)
  rw [unpackPixel, List.getD_eq_getElem?_getD, stored, Option.getD_some, packByte_getLsbD_column]

theorem unpackPixel_pack_inside (hc : c < w) (hr : r < h) : unpackPixel w (pack w h pix) c r = pix c r := by
  simp [unpackPixel_pack hr (lt_eight_mul_packStride hc), hc]
end

/-- Settles O43: the byte that holds pixel `(c, r)` is byte `c / 8` of row `r`. -/
theorem packedBitsAreThePixels : Obligations.PackedBitsAreThePixels := by
  intro w h pix
  refine ⟨pack_length w h pix, fun r c hr hc => ?_⟩
  exact ⟨_, pack_getElem? hr (Nat.div_lt_of_lt_mul hc), packByte_getLsbD_column w pix r c⟩

/-! ## The streaming scan (R131) -/

/-- The bytes of row `r` of the packed bitmap. -/
def packRow (w : Nat) (pix : Nat → Nat → Bool) (r : Nat) : List Byte :=
  (List.range (packStride w)).map (packByte w pix r)

/-- The packed bitmap is its rows one after the other. -/
theorem pack_succ (w h : Nat) (pix : Nat → Nat → Bool) : pack w (h + 1) pix = pack w h pix ++ packRow w pix h := by
  rw [pack, Nat.mul_succ, List.range_add, List.map_append, List.map_map]
  refine congrArg (pack w h pix ++ ·) (List.map_congr_left fun k hk => ?_)
  have hk : k < packStride w := List.mem_range.mp hk
  simp only [Function.comp_apply, Nat.mul_comm _ h, row_major_div hk, row_major_mod hk]

theorem packTerm_of_lt {w c : Nat} (hc : c < w) (pix : Nat → Nat → Bool) (r : Nat) :
    packTerm w pix r (c / 8) (c % 8) = if pix c r then 2 ^ (7 - c % 8) else 0 := by
  simp [packTerm, Nat.div_add_mod, hc]

theorem packTerm_beyond_row {w k b : Nat} (h : w ≤ 8 * k + b) (pix : Nat → Nat → Bool) (r : Nat) :
    packTerm w pix r k b = 0 := by
  simp [packTerm, Nat.not_lt.mpr h]

namespace PackStream

/-- The scan of row `r` before column `c`: the full bytes of the row are flushed after those of the rows above, and the
accumulator holds the terms of the byte under way. -/
def beforeColumn (w : Nat) (pix : Nat → Nat → Bool) (r : Nat) (above : List Byte) (c : Nat) : PackStream where
  acc := ((List.range (c % 8)).map (packTerm w pix r (c / 8))).sum
  count := c % 8
  flushed := above ++ (List.range (c / 8)).map (packByte w pix r)

section
variable {w c : Nat} (pix : Nat → Nat → Bool) (r : Nat) (above : List Byte)

theorem push_beforeColumn (hc : c < w) :
    (beforeColumn w pix r above c).push (pix c r) = beforeColumn w pix r above (c + 1) := by
  have sum_next : ((List.range (c % 8)).map (packTerm w pix r (c / 8))).sum
        + (if pix c r then 2 ^ (7 - c % 8) else 0)
      = ((List.range (c % 8 + 1)).map (packTerm w pix r (c / 8))).sum := by
    rw [← packTerm_of_lt hc, List.sum_range_succ]
  by_cases full : c % 8 = 7
  · have hmod : (c + 1) % 8 = 0 := by omega
    have hdiv : (c + 1) / 8 = c / 8 + 1 := by omega
    simp only [push, beforeColumn, sum_next]
    simp [full, hmod, hdiv, List.range_succ, packByte]
  · have hmod : (c + 1) % 8 = c % 8 + 1 := by omega
    have hdiv : (c + 1) / 8 = c / 8 := by omega
    simp only [push, beforeColumn, sum_next]
    simp [full, hmod, hdiv]

theorem foldl_push_eq_beforeColumn (hc : c ≤ w) :
    (List.range c).foldl (fun st c => st.push (pix c r)) { acc := 0, count := 0, flushed := above } =
      beforeColumn w pix r above c := by
  induction c with
  | zero => simp [beforeColumn]
  | succ c ih =>
    rw [List.range_succ, List.foldl_append, ih (Nat.le_of_succ_le hc)]
    exact push_beforeColumn pix r above hc

/-- The accumulator left at the end of a row is the row's last byte: its remaining terms are 0. -/
theorem beforeColumn_end_acc (w : Nat) :
    BitVec.ofNat 8 (beforeColumn w pix r above w).acc = packByte w pix r (w / 8) := by
  have tail (b : Nat) : packTerm w pix r (w / 8) (w % 8 + b) = 0 :=
    packTerm_beyond_row (by omega) pix r
  have byteColumns : List.range 8 = List.range (w % 8) ++ (List.range (8 - w % 8)).map (w % 8 + ·) := by
    rw [← List.range_add, Nat.add_sub_cancel' (Nat.mod_lt w (by decide)).le]
  rw [packByte, byteColumns]
  simp [beforeColumn, Function.comp_def, tail]

theorem endRow_beforeColumn (w : Nat) :
    (beforeColumn w pix r above w).endRow = { acc := 0, count := 0, flushed := above ++ packRow w pix r } := by
  by_cases whole : w % 8 = 0
  · have stride : packStride w = w / 8 := by simp only [packStride]; omega
    simp [endRow, beforeColumn, packRow, whole, stride]
  · have stride : packStride w = w / 8 + 1 := by simp only [packStride]; omega
    have pixelsLeft : (beforeColumn w pix r above w).count ≠ 0 := whole
    rw [endRow, if_neg pixelsLeft, beforeColumn_end_acc]
    simp [beforeColumn, packRow, stride, List.range_succ]

/-- The scan of a row flushes the row's packed bytes and starts the next one afresh. -/
theorem row_eq (w : Nat) : row w pix { acc := 0, count := 0, flushed := above } r =
    { acc := 0, count := 0, flushed := above ++ packRow w pix r } := by
  rw [row, foldl_push_eq_beforeColumn pix r above le_rfl, endRow_beforeColumn]
end

theorem foldl_row_eq_pack (w h : Nat) (pix : Nat → Nat → Bool) :
    (List.range h).foldl (row w pix) { acc := 0, count := 0, flushed := [] } =
      { acc := 0, count := 0, flushed := pack w h pix } := by
  induction h with
  | zero => rfl
  | succ h ih => rw [List.range_succ, List.foldl_append, ih, List.foldl_cons, List.foldl_nil, row_eq, pack_succ]

end PackStream

/-- Settles O44, by induction on the rows, and in each row on the columns. -/
theorem streamingScanPacksTheSameBytes : Obligations.StreamingScanPacksTheSameBytes := fun w h pix =>
  congrArg PackStream.flushed (PackStream.foldl_row_eq_pack w h pix)

/-! ## Rotations (R134 to R138) -/

/-- Two masks have the same pixels in the frame of width `w` and height `h`. -/
def SamePixels (w h : Nat) (m m' : Nat → Nat → Bool) : Prop := ∀ c r, c < w → r < h → m c r = m' c r

section
variable {w h : Nat} {m m' : Nat → Nat → Bool}

/-- Packing reads only the pixels in the frame. -/
theorem pack_congr (hm : SamePixels w h m m') : pack w h m = pack w h m' := by
  refine List.map_congr_left fun i hi => ?_
  have hi : i < packStride w * h := List.mem_range.mp hi
  have term (b : Nat) : packTerm w m (i / packStride w) (i % packStride w) b =
      packTerm w m' (i / packStride w) (i % packStride w) b := by
    by_cases inRow : 8 * (i % packStride w) + b < w
    · rw [packTerm, packTerm, hm _ _ inRow (Nat.div_lt_of_lt_mul hi)]
    · rw [packTerm_beyond_row (by omega), packTerm_beyond_row (by omega)]
  simp only [packByte, funext term]

/-- An output pixel in the output's frame comes from the mask's frame. -/
theorem rotPix_congr (mode : RotMode) (hm : SamePixels w h m m') :
    SamePixels (rotW mode w h) (rotH mode w h) (rotPix mode w h m) (rotPix mode w h m') := by
  intro c r hc hr
  cases mode with
  | none => exact hm c r hc hr
  | cw =>
    have hc : c < h := hc
    exact hm r (h - 1 - c) hr (by omega)
  | ccw =>
    have hr : r < w := hr
    exact hm (w - 1 - r) c (by omega) hc
  | half =>
    have hc : c < w := hc
    have hr : r < h := hr
    exact hm (w - 1 - c) (h - 1 - r) (by omega) (by omega)

/-- Rotating a packed bitmap again agrees with rotating the mask (R138). -/
theorem repack_pack (mode : RotMode) (w h : Nat) (m : Nat → Nat → Bool) :
    repack mode w h (pack w h m) = pack (rotW mode w h) (rotH mode w h) (rotPix mode w h m) :=
  pack_congr (rotPix_congr mode fun _ _ hc hr => unpackPixel_pack_inside hc hr)

theorem rotPix_half_half : SamePixels w h (rotPix .half w h (rotPix .half w h m)) m := fun c r hc hr => by
  simp only [rotPix, Nat.sub_sub_self (Nat.le_sub_one_of_lt hc), Nat.sub_sub_self (Nat.le_sub_one_of_lt hr)]

theorem rotPix_ccw_cw : SamePixels w h (rotPix .ccw h w (rotPix .cw w h m)) m := fun c r _ hr => by
  simp only [rotPix, Nat.sub_sub_self (Nat.le_sub_one_of_lt hr)]

theorem rotPix_cw_ccw : SamePixels w h (rotPix .cw h w (rotPix .ccw w h m)) m := fun c r hc _ => by
  simp only [rotPix, Nat.sub_sub_self (Nat.le_sub_one_of_lt hc)]

/-- Two quarter turns are a half turn. -/
theorem rotPix_cw_cw (w h : Nat) (m : Nat → Nat → Bool) :
    rotPix .cw h w (rotPix .cw w h m) = rotPix .half w h m := rfl
end

/-- Settles O45: rotating again is rotating the mask, whose rotations compose in its frame. -/
theorem rotationsOfPackedBitmapsCompose : Obligations.RotationsOfPackedBitmapsCompose := by
  rintro w h m P rfl
  refine ⟨fun mode => (repack_pack mode w h m).symm, ?_, ?_, ?_, ?_, ?_⟩ <;>
    simp only [repack_pack, rotW, rotH, rotPix_cw_cw]
  · exact pack_congr rotPix_half_half
  · exact pack_congr rotPix_ccw_cw
  · exact pack_congr rotPix_cw_ccw
  · exact pack_congr rotPix_half_half
  · exact pack_congr rotPix_half_half

/-! ## The count of dark pixels (R138) -/

theorem length_filter_range (p : Nat → Bool) (n : Nat) :
    ((List.range n).filter p).length = ∑ i ∈ Finset.range n, (p i).toNat := by
  induction n with
  | zero => rfl
  | succ n ih =>
    rw [List.range_succ, List.filter_append, List.length_append, ih, Finset.sum_range_succ]
    cases hp : p n <;> simp [hp]

/-- A sum in row-major order is a sum over the rows. -/
theorem sum_row_major (w h : Nat) (f : Nat → Nat → Nat) :
    ∑ i ∈ Finset.range (w * h), f (i % w) (i / w) = ∑ r ∈ Finset.range h, ∑ c ∈ Finset.range w, f c r := by
  induction h with
  | zero => rfl
  | succ h ih =>
    rw [Nat.mul_succ, Finset.sum_range_add, ih, Finset.sum_range_succ]
    refine congrArg _ (Finset.sum_congr rfl fun c hc => ?_)
    rw [Nat.mul_comm w h, row_major_mod (Finset.mem_range.mp hc), row_major_div (Finset.mem_range.mp hc)]

/-- The number of dark pixels of the mask `m` of width `w` and height `h`. -/
def darkCount (w h : Nat) (m : Nat → Nat → Bool) : Nat :=
  ∑ r ∈ Finset.range h, ∑ c ∈ Finset.range w, (m c r).toNat

theorem length_filter_dark (w h : Nat) (m : Nat → Nat → Bool) :
    ((List.range (w * h)).filter fun k => m (k % w) (k / w)).length = darkCount w h m := by
  rw [length_filter_range, sum_row_major w h fun c r => (m c r).toNat, darkCount]

theorem onesOf_packByte (w : Nat) (pix : Nat → Nat → Bool) (r k : Nat) :
    onesOf (packByte w pix r k) = ∑ b ∈ Finset.range 8, (decide (8 * k + b < w) && pix (8 * k + b) r).toNat := by
  rw [onesOf, length_filter_range, ← Finset.sum_range_reflect]
  exact Finset.sum_congr rfl fun b hb => by rw [← packByte_getLsbD w pix r k (Finset.mem_range.mp hb)]

/-- The 1 bits of a packed row are the row's dark pixels: its tail adds none. -/
theorem sum_onesOf_row (w : Nat) (pix : Nat → Nat → Bool) (r : Nat) :
    ∑ k ∈ Finset.range (packStride w), onesOf (packByte w pix r k) = ∑ c ∈ Finset.range w, (pix c r).toNat :=
  have inByteRow : Finset.range w ⊆ Finset.range (8 * packStride w) := fun c hc =>
    Finset.mem_range.mpr (lt_eight_mul_packStride (Finset.mem_range.mp hc))
  calc ∑ k ∈ Finset.range (packStride w), onesOf (packByte w pix r k)
      = ∑ k ∈ Finset.range (packStride w), ∑ b ∈ Finset.range 8,
          (decide (8 * k + b < w) && pix (8 * k + b) r).toNat := by simp only [onesOf_packByte]
    _ = ∑ c ∈ Finset.range (8 * packStride w), (decide (c < w) && pix c r).toNat := by
        rw [← sum_row_major 8 _ fun b k => (decide (8 * k + b < w) && pix (8 * k + b) r).toNat]
        simp only [Nat.div_add_mod]
    _ = ∑ c ∈ Finset.range w, (decide (c < w) && pix c r).toNat :=
        (Finset.sum_subset inByteRow fun c _ beyond => by simp [mt Finset.mem_range.mpr beyond]).symm
    _ = ∑ c ∈ Finset.range w, (pix c r).toNat :=
        Finset.sum_congr rfl fun c hc => by simp [Finset.mem_range.mp hc]

theorem sum_onesOf_pack (w h : Nat) (pix : Nat → Nat → Bool) :
    ((pack w h pix).map onesOf).sum = darkCount w h pix := by
  induction h with
  | zero => rfl
  | succ h ih =>
    rw [pack_succ, List.map_append, List.sum_append, ih, darkCount, darkCount, Finset.sum_range_succ,
      ← sum_onesOf_row, packRow, List.map_map]
    rfl

/-- A rotation moves the dark pixels and neither loses nor doubles one. -/
theorem darkCount_rotPix (mode : RotMode) (w h : Nat) (m : Nat → Nat → Bool) :
    darkCount (rotW mode w h) (rotH mode w h) (rotPix mode w h m) = darkCount w h m := by
  cases mode with
  | none => rfl
  | cw =>
    calc ∑ r ∈ Finset.range w, ∑ c ∈ Finset.range h, (m r (h - 1 - c)).toNat
        = ∑ r ∈ Finset.range w, ∑ c ∈ Finset.range h, (m r c).toNat :=
          Finset.sum_congr rfl fun r _ => Finset.sum_range_reflect (fun c => (m r c).toNat) h
      _ = darkCount w h m := Finset.sum_comm
  | ccw =>
    calc ∑ r ∈ Finset.range w, ∑ c ∈ Finset.range h, (m (w - 1 - r) c).toNat
        = ∑ r ∈ Finset.range w, ∑ c ∈ Finset.range h, (m r c).toNat :=
          Finset.sum_range_reflect (fun r => ∑ c ∈ Finset.range h, (m r c).toNat) w
      _ = darkCount w h m := Finset.sum_comm
  | half =>
    calc ∑ r ∈ Finset.range h, ∑ c ∈ Finset.range w, (m (w - 1 - c) (h - 1 - r)).toNat
        = ∑ r ∈ Finset.range h, ∑ c ∈ Finset.range w, (m c (h - 1 - r)).toNat :=
          Finset.sum_congr rfl fun r _ => Finset.sum_range_reflect (fun c => (m c (h - 1 - r)).toNat) w
      _ = darkCount w h m := Finset.sum_range_reflect (fun r => ∑ c ∈ Finset.range w, (m c r).toNat) h

/-- Settles O46: packing keeps the count of dark pixels, and so does each rotation. -/
theorem packedOnesCountTheDarkPixels : Obligations.PackedOnesCountTheDarkPixels := fun mode w h m => by
  rw [sum_onesOf_pack, darkCount_rotPix, length_filter_dark]

/-! ## The success of a rotation (R132 to R137) -/

section
variable {s : State} {n : Snapshot} {mode : RotMode} {x0 y0 w h : Nat} {m : Nat → Nat → Bool}

/-- The output sides of a mode are the sides of the mask, in one order or the other. -/
theorem rotW_rotH_cases (mode : RotMode) (w h : Nat) :
    (rotW mode w h = w ∧ rotH mode w h = h) ∨ (rotW mode w h = h ∧ rotH mode w h = w) := by
  cases mode <;> simp [rotW, rotH]

/-- The packed rotated mask stands at `DST_ADDR` (R130). -/
theorem imageSuccess_rotatePlan_packedAt (s : State) (n : Snapshot) (mode : RotMode) (x0 y0 w h : Nat)
    (m : Nat → Nat → Bool) : (imageSuccess n (rotatePlan mode x0 y0 w h m) s).PackedAt n.ops.dstAddr.toNat
      (rotW mode w h) (rotH mode w h) (rotPix mode w h m) := by
  intro r c hr hc
  obtain ⟨-, pixels⟩ := packedBitsAreThePixels (rotW mode w h) (rotH mode w h) (rotPix mode w h m)
  obtain ⟨b, stored, bit⟩ := pixels r c hr hc
  obtain ⟨hk, rfl⟩ := List.getElem?_eq_some_iff.mp stored
  rw [Nat.add_assoc, ← bit]
  exact congrArg (BitVec.getLsbD · _) (imageSuccess_byteAt_inside n (rotatePlan mode x0 y0 w h m) s hk)

/-- The result registers hold the numbers of a rotation whose output range is valid and whose origin and sides fit. -/
theorem imageSuccess_rotatePlan_imageIs (hx : x0 < 2 ^ 32) (hy : y0 < 2 ^ 32) (hw : w < 2 ^ 32) (hh : h < 2 ^ 32)
    (hdst : ({ base := n.ops.dstAddr.toNat, len := packStride (rotW mode w h) * rotH mode w h } : Range).valid s.cfg
      = true) :
    (imageSuccess n (rotatePlan mode x0 y0 w h m) s).ImageIs x0 y0 w h (rotW mode w h) (rotH mode w h)
      (packStride (rotW mode w h)) := by
  have hlen : packStride (rotW mode w h) * rotH mode w h ≤ 2 ^ 31 := Range.valid_len_le hdst
  obtain ⟨how, hoh⟩ : rotW mode w h < 2 ^ 32 ∧ rotH mode w h < 2 ^ 32 := by
    rcases rotW_rotH_cases mode w h with ⟨hW, hH⟩ | ⟨hW, hH⟩ <;> omega
  have hstride : packStride (rotW mode w h) < 2 ^ 32 := by
    rw [packStride]
    omega
  exact imageSuccess_imageIs hx hy hw hh how hoh hstride (hlen.trans_lt (by decide))

theorem imageSuccess_rotatePlan_sameOutside (s : State) (n : Snapshot) (mode : RotMode) (x0 y0 w h : Nat)
    (m : Nat → Nat → Bool) : s.SameOutside (imageSuccess n (rotatePlan mode x0 y0 w h m) s) n.ops.dstAddr.toNat
      (packStride (rotW mode w h) * rotH mode w h) := by
  simpa only [rotatePlan, pack_length] using imageSuccess_sameOutside n (rotatePlan mode x0 y0 w h m) s

theorem exec_ofRot (mode : RotMode) (s : State) : exec (.ofRot mode) s = runRot mode s := by
  cases mode <;> rfl

/-- A `ROT` command with no failing check ends in the success of its rotation (R133). -/
theorem exec_ofRot_success {acc : BitVec 16} (he : s.engine = .busy n acc) (hsrc : n.maskRange.valid s.cfg = true)
    (hw : w = n.ops.width.toNat) (hh : h = n.ops.height.toNat)
    (hdst : ({ base := n.ops.dstAddr.toNat, len := packStride (rotW mode w h) * rotH mode w h } : Range).valid s.cfg
      = true)
    (happart : n.maskRange.overlaps
      { base := n.ops.dstAddr.toNat, len := packStride (rotW mode w h) * rotH mode w h } = false) :
    exec (.ofRot mode) s = .next (imageSuccess n (rotatePlan mode 0 0 w h (s.maskPixel n)) s) := by
  subst hw hh
  have hplan : rotPlan mode n s = .ok (rotatePlan mode 0 0 n.ops.width.toNat n.ops.height.toNat (s.maskPixel n)) :=
    if_pos hsrc
  rw [exec_ofRot, runRot, withCommand_busy he, finishImage_success hplan hdst happart]

/-- What a `ROT` command with no failing check leaves (R132, R133). -/
theorem exec_ofRot_completes {acc : BitVec 16} {W H dst : Nat} {M : Nat → Nat → Bool} (mode : RotMode)
    (he : s.engine = .busy n acc) (hW : W = n.ops.width.toNat) (hH : H = n.ops.height.toNat)
    (hd : dst = n.ops.dstAddr.toNat) (hM : M = s.maskPixel n) (hsrc : n.maskRange.valid s.cfg = true)
    (hdst : ({ base := dst, len := packStride (rotW mode W H) * rotH mode W H } : Range).valid s.cfg = true)
    (happart : n.maskRange.overlaps { base := dst, len := packStride (rotW mode W H) * rotH mode W H } = false) :
    ∃ t, exec (.ofRot mode) s = .next t ∧ s.Succeeded t ∧ t.crc = s.crc ∧
      t.ImageIs 0 0 W H (rotW mode W H) (rotH mode W H) (packStride (rotW mode W H)) ∧
      t.PackedAt dst (rotW mode W H) (rotH mode W H) (rotPix mode W H M) ∧
      s.SameOutside t dst (packStride (rotW mode W H) * rotH mode W H) := by
  subst hd hM
  have hwidth : W < 2 ^ 32 := hW ▸ n.ops.width.isLt
  have hheight : H < 2 ^ 32 := hH ▸ n.ops.height.isLt
  exact ⟨_, exec_ofRot_success he hsrc hW hH hdst happart, imageSuccess_succeeded n _ s, rfl,
    imageSuccess_rotatePlan_imageIs (by decide) (by decide) hwidth hheight hdst,
    imageSuccess_rotatePlan_packedAt s n mode 0 0 W H _, imageSuccess_rotatePlan_sameOutside s n mode 0 0 W H _⟩
end

/-- Settles O47: the common procedure of the four commands, at each mode. -/
theorem rotatePacksTheRotatedMask : Obligations.RotatePacksTheRotatedMask := by
  intro s n acc W H dst M he hW hH hd hM hsrc
  have mask : M = s.maskPixel n := by
    funext x y
    rw [hM, hW, State.maskPixel]
  have completes (mode : RotMode) := exec_ofRot_completes mode he hW hH hd mask hsrc
  exact ⟨fun hdst happart => ⟨completes .none hdst happart, completes .half hdst happart⟩,
    fun hdst happart => ⟨completes .cw hdst happart, completes .ccw hdst happart⟩⟩

end Sys2Proof.Machine

/-! PROOFS. The family of 42_checksum.md: the table, the division by the polynomial and its linearity, the CRC of a list
of code units, the hex rendering, the completion of `CRC`, and the statements about them. -/

namespace Sys2Proof.Machine

/-! ## The table (R161) -/

/-- The literals of the table, compared once with the definition behind them. -/
theorem crcTable_eq_map : crcTable = (List.range 256).map fun i => crcStep8 (BitVec.ofNat 16 i <<< (8 : Nat)) := by
  decide +kernel

theorem crcEntry_eq_crcStep8 {i : Nat} (hi : i < 256) : crcEntry i = crcStep8 (BitVec.ofNat 16 i <<< (8 : Nat)) := by
  simp [crcEntry, crcTable_eq_map, hi]

/-- Settles O51: the table is the map of eight division steps over its indexes. -/
theorem tableIsThePolynomialsTable : Obligations.TableIsThePolynomialsTable :=
  ⟨by simp [crcTable_eq_map], fun _ => crcEntry_eq_crcStep8⟩

/-! ## The division by the polynomial (R161, R162) -/

section
variable {v : BitVec 16}

theorem crcStep_of_msb (h : v.msb = true) : crcStep v = (v <<< 1) ^^^ 0x1021 := if_pos h

theorem crcStep_of_not_msb (h : v.msb = false) : crcStep v = v <<< 1 := if_neg (by simp [h])

/-- A division step is linear: the polynomial is taken off the sum just when it is taken off one of the two terms. -/
theorem crcStep_xor (v w : BitVec 16) : crcStep (v ^^^ w) = crcStep v ^^^ crcStep w := by
  have msb : (v ^^^ w).msb = (v.msb ^^ w.msb) := BitVec.msb_xor
  have shift : (v ^^^ w) <<< 1 = v <<< 1 ^^^ w <<< 1 := BitVec.shiftLeft_xor_distrib v w 1
  cases hv : v.msb <;> cases hw : w.msb <;> rw [hv, hw] at msb
  · rw [crcStep_of_not_msb msb, crcStep_of_not_msb hv, crcStep_of_not_msb hw, shift]
  · rw [crcStep_of_msb msb, crcStep_of_not_msb hv, crcStep_of_msb hw, shift, BitVec.xor_assoc]
  · rw [crcStep_of_msb msb, crcStep_of_msb hv, crcStep_of_not_msb hw, shift]
    ac_rfl
  · rw [crcStep_of_not_msb msb, crcStep_of_msb hv, crcStep_of_msb hw, shift, BitVec.xor_assoc, BitVec.xor_comm 0x1021,
      BitVec.xor_assoc, BitVec.xor_self, BitVec.xor_zero]

theorem crcStep8_xor (v w : BitVec 16) : crcStep8 (v ^^^ w) = crcStep8 v ^^^ crcStep8 w := by
  simp only [crcStep8, crcStep_xor]

/-- A value of one byte meets the polynomial only once it is shifted out of the low byte. -/
theorem crcStep_shiftLeft (hv : v.toNat < 2 ^ 8) {k : Nat} (hk : k < 8) : crcStep (v <<< k) = v <<< (k + 1) := by
  have top : v.getLsbD (15 - k) = false :=
    Nat.testBit_lt_two_pow (hv.trans_le (Nat.pow_le_pow_right (by decide) (by omega)))
  rw [crcStep_of_not_msb (by simp [BitVec.msb_shiftLeft, BitVec.getMsbD, top]), BitVec.shiftLeft_add]

/-- Eight steps of a value of one byte only shift. -/
theorem crcStep8_of_lt (hv : v.toNat < 2 ^ 8) : crcStep8 v = v <<< (8 : Nat) := by
  have start := crcStep_shiftLeft hv (k := 0) (by decide)
  rw [BitVec.shiftLeft_zero] at start
  simp only [crcStep8, start, crcStep_shiftLeft hv, Nat.reduceLT, Nat.reduceAdd]
end

/-! ## One code unit (R160, R162) -/

section
variable (crc : BitVec 16)

/-- The table index of R160: the high byte of the accumulator, added to the code unit. -/
theorem crcIndex_toNat {c : Nat} (hc : c ≤ 255) :
    ((crc >>> 8) ^^^ BitVec.ofNat 16 c).toNat = crc.toNat / 256 ^^^ c := by
  simp [Nat.shiftRight_eq_div_pow, Nat.mod_eq_of_lt (show c < 65536 by omega)]

theorem crcIndex_lt {c : Nat} (hc : c ≤ 255) : crc.toNat / 256 ^^^ c < 2 ^ 8 :=
  Nat.xor_lt_two_pow (by omega) (by omega)

/-- A code unit of at most 255 needs no mask of the index. -/
theorem crcUpdate_eq {c : Nat} (hc : c ≤ 255) :
    crcUpdate crc c = (crc <<< (8 : Nat)) ^^^ crcEntry (crc.toNat / 256 ^^^ c) := by
  have low : (0xFF : BitVec 16).toNat = 2 ^ 8 - 1 := rfl
  rw [crcUpdate, BitVec.toNat_and, low, Nat.and_two_pow_sub_one_eq_mod, crcIndex_toNat crc hc,
    Nat.mod_eq_of_lt (crcIndex_lt crc hc)]

/-- The accumulator with a code unit added at the top is the table index at the top, and the old low byte. -/
theorem xor_unit_at_top (c : Byte) : crc ^^^ ((c.setWidth 16 : BitVec 16) <<< (8 : Nat)) =
    ((crc >>> 8) ^^^ c.setWidth 16) <<< (8 : Nat) ^^^ (crc.setWidth 8).setWidth 16 := by
  ext i hi
  by_cases h : i < 8
  · simp [h, BitVec.getLsbD_eq_getElem hi]
  · simp [h, show 8 + (i - 8) = i by omega, BitVec.getLsbD_eq_getElem hi]

theorem lowByte_shiftLeft : ((crc.setWidth 8).setWidth 16 : BitVec 16) <<< (8 : Nat) = crc <<< (8 : Nat) := by
  ext i hi
  simp [BitVec.getLsbD_eq_getElem (show i - 8 < 16 by omega), show i - 8 < 8 by omega]
end

/-- By linearity: the lookup is the eight steps of the index, and the eight steps of the low byte are a shift. -/
theorem crcUpdate_toNat (crc : BitVec 16) (c : Byte) : crcUpdate crc c.toNat = crcSerialUnit crc c := by
  have hc : c.toNat ≤ 255 := by omega
  have index : BitVec.ofNat 16 (crc.toNat / 256 ^^^ c.toNat) = (crc >>> 8) ^^^ c.setWidth 16 := by
    rw [← crcIndex_toNat crc hc, BitVec.ofNat_toNat, BitVec.setWidth_eq, BitVec.ofNat_toNat]
  have low : ((crc.setWidth 8).setWidth 16 : BitVec 16).toNat < 2 ^ 8 := by simp; omega
  calc crcUpdate crc c.toNat
    _ = crc <<< (8 : Nat) ^^^ crcEntry (crc.toNat / 256 ^^^ c.toNat) := crcUpdate_eq crc hc
    _ = crc <<< (8 : Nat) ^^^ crcStep8 (((crc >>> 8) ^^^ c.setWidth 16) <<< (8 : Nat)) := by
      rw [crcEntry_eq_crcStep8 (crcIndex_lt crc hc), index]
    _ = crcStep8 (((crc >>> 8) ^^^ c.setWidth 16) <<< (8 : Nat) ^^^ (crc.setWidth 8).setWidth 16) := by
      rw [crcStep8_xor, crcStep8_of_lt low, lowByte_shiftLeft, BitVec.xor_comm]
    _ = crcSerialUnit crc c := by rw [← xor_unit_at_top, crcSerialUnit]

/-! ## The CRC of a list of code units (R160, R162) -/

/-- With no unit above 255 no `INVALID_CHARACTER` is raised (R160). -/
theorem crcAccumulate_ok {units : List Nat} (h : ∀ c ∈ units, c ≤ 255) (acc : BitVec 16) :
    crcAccumulate acc units = .ok (units.foldl crcUpdate acc) := by
  induction units generalizing acc with
  | nil => rfl
  | cons c cs ih =>
    obtain ⟨hc, hcs⟩ := List.forall_mem_cons.mp h
    rw [crcAccumulate, if_neg (by omega), ih hcs, List.foldl_cons]

/-- Settles O52: the two forms agree on each unit, so on the list. -/
theorem tableFormEqualsBitSerialForm : Obligations.TableFormEqualsBitSerialForm := fun units => by
  have bytes : ∀ c ∈ units.map BitVec.toNat, c ≤ 255 := by
    simp only [List.forall_mem_map]
    omega
  rw [crc16, crcAccumulate_ok bytes, List.foldl_map, crcSerial]
  simp only [crcUpdate_toNat]

/-! ## The hex rendering (R164) -/

theorem hexChar_mod (n : Nat) : hexChar (n % 16) = hexChar n := by
  simp [hexChar]

/-- The engine's hex digits are the characters of the text form (R164, R92). -/
theorem hexDigit_toNat (d : BitVec 4) : (hexDigit d).toNat = (hexChar d.toNat).toNat := by
  revert d
  decide

/-- The bytes above the lowest one. -/
theorem extractLsb'_append_byte {m : Nat} (x : BitVec m) (b : Byte) (k : Nat) :
    (x ++ b).extractLsb' (8 * (k + 1)) 8 = x.extractLsb' (8 * k) 8 :=
  BitVec.extractLsb'_append_eq_of_le (by omega)

/-- The first character is the most significant digit (R164). -/
theorem hex4_byte (crc : BitVec 16) {k : Nat} (hk : k < 4) :
    (hex4 crc).extractLsb' (8 * k) 8 = hexDigit (crc.extractLsb' (4 * (3 - k)) 4) := by
  match k with
  | 0 => exact BitVec.extractLsb'_append_eq_right
  | 1 => exact (extractLsb'_append_byte _ _ 0).trans BitVec.extractLsb'_append_eq_right
  | 2 =>
    exact (extractLsb'_append_byte _ _ 1).trans
      ((extractLsb'_append_byte _ _ 0).trans BitVec.extractLsb'_append_eq_right)
  | 3 =>
    exact (extractLsb'_append_byte _ _ 2).trans ((extractLsb'_append_byte _ _ 1).trans
      ((extractLsb'_append_byte _ _ 0).trans BitVec.extractLsb'_eq_self))

theorem extractLsb'_digit (crc : BitVec 16) (j : Nat) :
    (crc.extractLsb' (4 * j) 4).toNat = crc.toNat / 16 ^ j % 16 := by
  rw [BitVec.extractLsb'_toNat, Nat.shiftRight_eq_div_pow, Nat.pow_mul]

/-- Settles O53: each byte is the character of its digit. -/
theorem hexRenderingIsFourLowercaseDigits : Obligations.HexRenderingIsFourLowercaseDigits := fun crc k hk => by
  refine ⟨hexChar (crc.toNat / 16 ^ (3 - k)), (hexChar_eq _).symm, ?_⟩
  rw [hex4_byte crc hk, hexDigit_toNat, extractLsb'_digit, hexChar_mod]

/-! ## The completion of `CRC` (R160, R165, R166) -/

theorem finishCrc_sameShell (n : Snapshot) (sum : BitVec 16) (s : State) : s.SameShell (finishCrc n sum s) := by
  constructor <;> rfl

theorem finishCrc_succeeded (n : Snapshot) (sum : BitVec 16) (s : State) : s.Succeeded (finishCrc n sum s) where
  shell := finishCrc_sameShell n sum s
  engine := rfl
  done := rfl
  errcode := rfl
  err := rfl

/-- Settles O36: `CRC` ends in an error completion or in its success, and neither stores a byte. -/
theorem checksumFrame : Obligations.ChecksumFrame := by
  intro u s t hx
  obtain ⟨n, acc, -, ⟨c, rfl⟩ | ⟨sum, -, -, rfl⟩⟩ := crcCommand_cases hx
  · exact ⟨raiseError_sameShell c s, rfl, rfl, rfl, fun _ => rfl⟩
  · exact ⟨finishCrc_sameShell n sum s, rfl, rfl, rfl, fun _ => rfl⟩

/-- A one-byte unit (R165). -/
theorem codeUnit_b8 (s : State) (n : Snapshot) (k : Nat) :
    s.codeUnit n .b8 k = (s.byteAt (n.ops.srcAddr.toNat + k)).toNat := by
  simp [State.codeUnit, unitBytes, State.memRead]

/-- A 16-bit unit is little-endian (R166). -/
theorem codeUnit_u16 (s : State) (n : Snapshot) (k : Nat) : s.codeUnit n .u16 k =
    (s.byteAt (n.ops.srcAddr.toNat + 2 * k)).toNat + 256 * (s.byteAt (n.ops.srcAddr.toNat + 2 * k + 1)).toNat := by
  simp [State.codeUnit, unitBytes, State.memRead]

/-- `CRC` with a string in range and every unit at most 255 ends in the success of the fold over its units. -/
theorem execCrc_success {s : State} {n : Snapshot} {acc : BitVec 16} {u : CodeUnit} (he : s.engine = .busy n acc)
    (hrange : (n.stringRange u).valid s.cfg = true) (hunits : ∀ c ∈ s.codeUnits n u, c ≤ 255) :
    execCrc u s = .next (finishCrc n ((s.codeUnits n u).foldl crcUpdate 0) s) := by
  rw [execCrc, withCommand_busy he, if_pos hrange, crc16, crcAccumulate_ok hunits]

/-- Settles O54: the success of `CRC`, the fold written with the unmasked index. -/
theorem checksumOfTheCodeUnits : Obligations.ChecksumOfTheCodeUnits := by
  intro s n acc u units he hunits hrange hsmall
  have units_eq : units = s.codeUnits n u := by
    rw [hunits, State.codeUnits]
    cases u with
    | b8 => exact List.map_congr_left fun k _ => (codeUnit_b8 s n k).symm
    | u16 => exact List.map_congr_left fun k _ => (codeUnit_u16 s n k).symm
  refine ⟨_, execCrc_success he hrange (units_eq ▸ hsmall), finishCrc_succeeded n _ s, rfl, rfl, ?_, rfl⟩
  rw [← units_eq]
  exact List.foldl_ext _ _ _ fun crc c hc => crcUpdate_eq crc (hsmall c hc)

end Sys2Proof.Machine

/-! PROOFS. The family of 43_pipeline.md: what `MONOPACK` leaves, what an image command that raised no error did, the
mask between `MONO` and `ROT`, and the statements about them. -/

namespace Sys2Proof.Machine

/-! ## The success of `MONOPACK` (R180) -/

section
variable {s : State} {n : Snapshot} {acc : BitVec 16} {mode : RotMode} {skip : Bool} {black p H : Nat} {box : Box}

/-- `MONOPACK` with no failing check ends in the success of its rotated crop (R180). -/
theorem execMonopack_success (he : s.engine = .busy n acc) (hchecks : imageChecks black n s = .ok (p, H))
    (hbox : box = chooseBox skip n.ops.width.toNat H (s.darkAt n p))
    (hdst : ({ base := n.ops.dstAddr.toNat, len := packStride (rotW mode box.w box.h) * rotH mode box.w box.h } :
      Range).valid s.cfg = true)
    (happart : n.pixelRange.overlaps
      { base := n.ops.dstAddr.toNat, len := packStride (rotW mode box.w box.h) * rotH mode box.w box.h } = false) :
    exec (.monopack mode skip black) s =
      .next (imageSuccess n (rotatePlan mode box.x box.y box.w box.h (cropped box (s.darkAt n p))) s) := by
  have hplan : monopackPlan mode skip black n s =
      .ok (rotatePlan mode box.x box.y box.w box.h (cropped box (s.darkAt n p))) := by
    rw [monopackPlan, hchecks, hbox]
    rfl
  exact (withCommand_busy he _).trans (congrArg _ (finishImage_success hplan hdst happart))

theorem imageHeight_le (h : imageHeight n = .ok H) : H ≤ n.ops.srcLen.toNat := by
  simp only [imageHeight] at h
  split at h
  · cases h
  · cases h
    exact Nat.div_le_self _ _

/-- The height that passes the checks is the image's, hence at most the length of the source (40_monochromizer.md
R104). -/
theorem imageChecks_height_le (h : imageChecks black n s = .ok (p, H)) : H ≤ n.ops.srcLen.toNat := by
  unfold imageChecks at h
  split at h
  · cases h
  · split at h
    · cases h
    · rename_i hheight
      split at h
      · cases h
        exact imageHeight_le hheight
      · cases h

/-- The numbers of the box of a command that passes its checks fit in the result registers. -/
theorem chooseBox_fits (hchecks : imageChecks black n s = .ok (p, H))
    (hbox : box = chooseBox skip n.ops.width.toNat H (s.darkAt n p)) :
    box.x < 2 ^ 32 ∧ box.y < 2 ^ 32 ∧ box.w < 2 ^ 32 ∧ box.h < 2 ^ 32 := by
  obtain ⟨hx, hy⟩ : box.x + box.w ≤ n.ops.width.toNat ∧ box.y + box.h ≤ H := hbox ▸ chooseBox_within ..
  have hH := imageChecks_height_le hchecks
  have hwidth := n.ops.width.isLt
  have hsrcLen := n.ops.srcLen.isLt
  omega
end

/-- The four modes as the statement lists them are the model's (41_rotator.md R134 to R137). -/
theorem rotation_of_listed_mode {mode : RotMode} {w h w' h' : Nat} {m pix : Nat → Nat → Bool}
    (listed : (mode = .none ∧ w' = w ∧ h' = h ∧ ∀ c r, pix c r = m c r) ∨
      (mode = .cw ∧ w' = h ∧ h' = w ∧ ∀ c r, pix c r = m r (h - 1 - c)) ∨
      (mode = .ccw ∧ w' = h ∧ h' = w ∧ ∀ c r, pix c r = m (w - 1 - r) c) ∨
      (mode = .half ∧ w' = w ∧ h' = h ∧ ∀ c r, pix c r = m (w - 1 - c) (h - 1 - r))) :
    w' = rotW mode w h ∧ h' = rotH mode w h ∧ pix = rotPix mode w h m := by
  rcases listed with ⟨rfl, rfl, rfl, hpix⟩ | ⟨rfl, rfl, rfl, hpix⟩ | ⟨rfl, rfl, rfl, hpix⟩ | ⟨rfl, rfl, rfl, hpix⟩ <;>
    exact ⟨rfl, rfl, funext₂ hpix⟩

/-- Settles O48: the rotation of the crop, whose box lies in the source image. -/
theorem monopackPacksTheRotatedCrop : Obligations.MonopackPacksTheRotatedCrop := by
  rintro s n acc mode skip black p W H W' H' dst box M pix he hp rfl hW hL hsrc hbox rfl hM listed hdst happart
  obtain rfl : M = cropped box (s.darkAt n p) := funext₂ hM
  obtain ⟨rfl, rfl, rfl⟩ := rotation_of_listed_mode listed
  have hchecks := imageChecks_ok (threshold_ok hp) hW hL hsrc
  obtain ⟨hx, hy, hw, hh⟩ := chooseBox_fits hchecks hbox
  exact ⟨_, execMonopack_success he hchecks hbox hdst happart, imageSuccess_succeeded n _ s, rfl,
    imageSuccess_rotatePlan_imageIs hx hy hw hh hdst, imageSuccess_rotatePlan_packedAt s n mode _ _ _ _ _,
    imageSuccess_rotatePlan_sameOutside s n mode _ _ _ _ _⟩

/-! ## An image command that raised no error (60_exceptions.md R210, R214) -/

theorem toOption_map_eq_some {ε α β : Type} {x : Except ε α} {f : α → β} {b : β} :
    (x.map f).toOption = some b ↔ ∃ a, x = .ok a ∧ f a = b := by
  cases x <;> simp [Except.map, Except.toOption]

/-- A rotation's output depends only on the pixels in the mask's frame. -/
theorem rotatePlan_congr {w h : Nat} {m m' : Nat → Nat → Bool} (mode : RotMode) (x0 y0 : Nat)
    (hm : SamePixels w h m m') : rotatePlan mode x0 y0 w h m = rotatePlan mode x0 y0 w h m' := by
  rw [rotatePlan, rotatePlan, pack_congr (rotPix_congr mode hm)]

section
variable {s t : State} {n : Snapshot} {acc : BitVec 16} {mode : RotMode} {skip : Bool} {black : Nat}

/-- An image command that left `ERR` clear is the success of its plan. -/
theorem exec_of_no_error {i : Instr} (hi : ∀ u, i ≠ .crc u) (he : s.engine = .busy n acc) (h : exec i s = .next t)
    (ht : t.status.err = false) : ∃ plan, plannedOutput i n s = some plan ∧ t = imageSuccess n plan s := by
  obtain ⟨m, acc', hm, hcases⟩ := exec_cases h
  obtain ⟨rfl, rfl⟩ : n = m ∧ acc = acc' := by simpa [he] using hm
  rcases hcases with ⟨c, rfl⟩ | ⟨plan, planned, -, -, ht⟩ | ⟨u, -, hu, -⟩
  · simp at ht
  · exact ⟨plan, planned, ht⟩
  · exact absurd hu (hi u)

theorem exec_mono_of_no_error (he : s.engine = .busy n acc) (h : exec (.mono skip black) s = .next t)
    (ht : t.status.err = false) : ∃ p H box, imageChecks black n s = .ok (p, H) ∧
      box = chooseBox skip n.ops.width.toNat H (s.darkAt n p) ∧ t = imageSuccess n (maskPlan box (s.darkAt n p)) s := by
  obtain ⟨plan, planned, rfl⟩ := exec_of_no_error (by simp) he h ht
  obtain ⟨⟨p, H⟩, hchecks, rfl⟩ := toOption_map_eq_some.mp planned
  exact ⟨p, H, _, hchecks, rfl, rfl⟩

theorem exec_monopack_of_no_error (he : s.engine = .busy n acc) (h : exec (.monopack mode skip black) s = .next t)
    (ht : t.status.err = false) : ∃ p H box, imageChecks black n s = .ok (p, H) ∧
      box = chooseBox skip n.ops.width.toNat H (s.darkAt n p) ∧
      t = imageSuccess n (rotatePlan mode box.x box.y box.w box.h (cropped box (s.darkAt n p))) s := by
  obtain ⟨plan, planned, rfl⟩ := exec_of_no_error (by simp) he h ht
  obtain ⟨⟨p, H⟩, hchecks, rfl⟩ := toOption_map_eq_some.mp planned
  exact ⟨p, H, _, hchecks, rfl, rfl⟩

/-- The mask counts only by its pixels in the frame. -/
theorem exec_ofRot_of_no_error {w h : Nat} {m : Nat → Nat → Bool} (he : s.engine = .busy n acc)
    (hrun : exec (.ofRot mode) s = .next t) (ht : t.status.err = false) (hw : n.ops.width.toNat = w)
    (hh : n.ops.height.toNat = h) (hm : SamePixels w h (s.maskPixel n) m) :
    t = imageSuccess n (rotatePlan mode 0 0 w h m) s := by
  have notCrc (u : CodeUnit) : Instr.ofRot mode ≠ .crc u := by cases mode <;> simp [Instr.ofRot]
  have hplan : plannedOutput (.ofRot mode) n s = (rotPlan mode n s).toOption := by cases mode <;> rfl
  obtain ⟨plan, planned, rfl⟩ := exec_of_no_error notCrc he hrun ht
  rw [hplan, rotPlan, hw, hh, rotatePlan_congr mode 0 0 hm] at planned
  split at planned
  · cases planned
    rfl
  · cases planned
end

/-! ## The mask between `MONO` and `ROT` (R182; 40_monochromizer.md R111) -/

/-- The mask that `ROT` reads where `MONO` wrote is the cropped classification: a mask byte is nonzero exactly for a
dark pixel. -/
theorem maskPixel_after_mono {s : State} {n m : Snapshot} {box : Box} {isDark : Nat → Nat → Bool} (engine : Engine)
    (hsrc : m.ops.srcAddr = n.ops.dstAddr) (hwidth : m.ops.width.toNat = box.w) :
    SamePixels box.w box.h (((imageSuccess n (maskPlan box isDark) s).setEngine engine).maskPixel m)
      (cropped box isDark) := by
  intro x y hx hy
  rw [State.maskPixel, State.setEngine_byteAt, hsrc, hwidth, imageSuccess_maskPlan_byteAt s n isDark hx hy, cropped]
  cases isDark (box.x + x) (box.y + y) <;> rfl

/-- `OUT_LEN` counts no more bytes than the plan writes. -/
theorem lt_length_of_lt_outLen {mode : RotMode} {x0 y0 w h k : Nat} {m : Nat → Nat → Bool}
    (hk : k < (rotatePlan mode x0 y0 w h m).results.outLen.toNat) : k < (rotatePlan mode x0 y0 w h m).bytes.length := by
  rw [rotatePlan_bytes_length]
  exact hk.trans_le (Nat.mod_le _ _)

/-- Settles O49: `MONO` passes the checks that `MONOPACK` passes and chooses the same box; the rotation then reads back
the crop that `MONOPACK` rotates. -/
theorem monopackEqualsMonoThenRotate : Obligations.MonopackEqualsMonoThenRotate := by
  intro s t t1 t2 n acc acc1 acc2 mode skip black scratch cmd1 cmd2 he _ hpack ht hmono ht1 hrot ht2
  obtain ⟨p, H, box, hchecks, hbox, rfl⟩ := exec_monopack_of_no_error he hpack ht
  obtain ⟨p1, H1, box1, hchecks1, hbox1, rfl⟩ := exec_mono_of_no_error rfl hmono ht1
  obtain ⟨rfl, rfl⟩ : p = p1 ∧ H = H1 := by simpa using hchecks.symm.trans hchecks1
  obtain rfl : box = box1 := hbox.trans hbox1.symm
  obtain ⟨-, -, hw, hh⟩ := chooseBox_fits hchecks hbox
  have hwidth : (BitVec.ofNat 32 box.w).toNat = box.w := Nat.mod_eq_of_lt hw
  have hheight : (BitVec.ofNat 32 box.h).toNat = box.h := Nat.mod_eq_of_lt hh
  obtain rfl := exec_ofRot_of_no_error rfl hrot ht2 hwidth hheight (maskPixel_after_mono _ rfl hwidth)
  refine ⟨rfl, rfl, rfl, rfl, rfl, rfl, rfl, rfl, fun k hk => ?_⟩
  have hk := lt_length_of_lt_outLen hk
  exact (imageSuccess_byteAt_inside _ _ _ hk).trans (imageSuccess_byteAt_inside n _ s hk).symm

end Sys2Proof.Machine

/-! PROOFS. The family of 60_exceptions.md: bad host accesses, the interrupt output, the code and the precision of an
error completion, the order of the checks, and the statements about them. -/

namespace Sys2Proof.Machine

/-! ## Bad host accesses (R225) -/

/-- The access reaches a register or the window in a way that its rules do not allow (10_state.md R22; 20_memory.md
R62). -/
def BadAccess (cfg : Config) (addr : Nat) (size : Size) : Prop :=
  (∃ off, target cfg addr = .register off ∧ registerAccessOk off size = false) ∨
  (∃ a, target cfg addr = .buffer a ∧ windowAccessOk cfg a size = false)

theorem badAccess_iff {cfg : Config} {addr : Nat} {size : Size} : BadAccess cfg addr size ↔
    (∃ off, target cfg addr = .register off ∧ (size ≠ .b4 ∨ off % 4 ≠ 0)) ∨
    (∃ a, target cfg addr = .buffer a ∧ (a % size.bytes ≠ 0 ∨ cfg.memBytes < a + size.bytes)) := by
  simp only [BadAccess, Bool.eq_false_iff, ne_eq, registerAccessOk_iff, windowAccessOk_iff, not_and_or, not_le]

section
variable {s : State} {addr : Nat} {size : Size}

theorem hostRead_of_badAccess (hr : s.inReset = false) (h : BadAccess s.cfg addr size) :
    hostRead addr size s = .next (busError s) := by
  rcases h with ⟨off, ht, hok⟩ | ⟨a, ht, hok⟩ <;> simp [hostRead, hr, ht, hok]

theorem hostWrite_of_badAccess (v : Word) (hr : s.inReset = false) (h : BadAccess s.cfg addr size) :
    hostWrite addr size v s = .next (busError s) := by
  rcases h with ⟨off, ht, hok⟩ | ⟨a, ht, hok⟩ <;> simp [hostWrite, hr, ht, hok]
end

/-- Settles O13: a bad access takes the bus-error branch of the read or the write, and `irq` looks at neither of the two
fields that change. -/
theorem badAccessGetsBusErrorAndNoEffect : Obligations.BadAccessGetsBusErrorAndNoEffect := by
  intro s addr size v rest hr hi hbad
  have bad : BadAccess (s.setInputs rest).cfg addr size := badAccess_iff.mpr hbad
  refine ⟨?_, rfl⟩
  rcases hi with hi | hi
  · exact (nextMove_cons hi).trans (hostRead_of_badAccess hr bad)
  · exact (nextMove_cons hi).trans (hostWrite_of_badAccess v hr bad)

/-! ## The interrupt output (R215) -/

theorem intEnWord_getLsbD (s : State) {k : Nat} (hk : k < 3) : s.intEnWord.getLsbD k = s.intEn.getLsbD k := by
  have inWord : k < 32 := by omega
  simp [State.intEnWord, inWord]

theorem drivesLine_iff {s : State} {line : Nat} :
    s.drivesLine line = true ↔ line = s.cfg.irqLine ∧ s.irq = true := by
  simp [State.drivesLine]

/-- Settles O17: the six bits are the flags and enables that `irq` combines. -/
theorem irqIsTheOrOfEnabledSources : Obligations.IrqIsTheOrOfEnabledSources := by
  intro s
  obtain ⟨-, done, err, ovr, -⟩ := statusWord_fields s
  refine ⟨?_, fun _ => drivesLine_iff⟩
  simp (disch := decide) only [State.irq, readReg, done, err, ovr, intEnWord_getLsbD]

/-! ## Error completion (R200, R203, R210) -/

/-- The codes are 1 to 7 (R200). -/
theorem ErrorCode.code_bounds (c : ErrorCode) : 1 ≤ c.code.toNat ∧ c.code.toNat ≤ 7 := by
  cases c <;> decide

/-- A completion that raises an error has failed with its code. -/
theorem exists_failed_of_raises {s : State} {c : ErrorCode} {o : Host.Outcome State Fault Refusal}
    (h : o = .next (raiseError c s)) : ∃ t, o = .next t ∧ s.Failed c.code t :=
  ⟨_, h, raiseError_failed c s⟩

/-- A completion that sets `ERR` is an error completion: a success keeps `ERR` (R210, R214). -/
theorem Completion.failed {n : Snapshot} {s t : State} (h : Completion n s t) (hs : s.status.err = false)
    (ht : t.status.err = true) : ∃ c : ErrorCode, s.Failed c.code t := by
  cases h with
  | error c => exact ⟨c, raiseError_failed c s⟩
  | image i p =>
    have kept := (imageSuccess_succeeded n p s).err
    simp [kept, hs] at ht
  | crc sum =>
    have kept := (finishCrc_succeeded n sum s).err
    simp [kept, hs] at ht

/-- Settles O33: the move is a completion, since one that does nothing sets no flag, and the completion has failed. -/
theorem errorCompletionHasNoOutput : Obligations.ErrorCompletionHasNoOutput := by
  intro s t hm hs ht
  rcases engineMove_completion hm with rfl | ⟨n, acc, -, he, hc⟩
  · simp [hs] at ht
  · obtain ⟨c, failed⟩ := hc.failed hs ht
    obtain ⟨low, high⟩ := c.code_bounds
    exact ⟨s.busy_iff.mpr ⟨n, acc, he⟩, c.code, low, high, failed⟩

section
variable {s : State} {n : Snapshot} {acc : BitVec 16}

/-- The engine's move on an illegal word is the error completion (R203). -/
theorem engineMove_of_illegal {e : Illegal} (hr : s.inReset = false) (he : s.engine = .busy n acc)
    (hd : decode n.cmd = .error e) : engineMove s = .next (raiseError .illegalCommand s) := by
  simp [engineMove, hr, he, completeCommand, hd]
end

/-- Settles O28: the error completion keeps `CMD`, which holds the word in flight. -/
theorem illegalWordCompletesInError : Obligations.IllegalWordCompletesInError := fun s _ acc _ hr he hd =>
  ⟨_, engineMove_of_illegal hr he hd, raiseError_failed .illegalCommand s, rfl, fun ok => (ok.command _ acc he).symm⟩

/-! ## The source checks of `MONO` and `MONOPACK` (R201, R204, R205) -/

section
variable {s : State} {n : Snapshot} {acc : BitVec 16} {black p H : Nat}

/-- Every `BLACK` field up to 99 has a threshold (30_encoding.md R85). -/
theorem exists_threshold (h : black ≤ 99) : ∃ p, threshold black = .ok p := by
  by_cases h0 : black = 0
  · exact ⟨50, threshold_ok (.inl ⟨h0, rfl⟩)⟩
  · exact ⟨black, threshold_of_le (by omega) h⟩

theorem imageHeight_invalidWidth
    (h : n.ops.width.toNat = 0 ∨ n.ops.srcLen.toNat % (4 * n.ops.width.toNat) ≠ 0) :
    imageHeight n = .error .invalidWidth := by
  rw [imageHeight, if_pos (by simpa using h)]

theorem imageChecks_invalidWidth (hp : threshold black = .ok p) (h : imageHeight n = .error .invalidWidth) :
    imageChecks black n s = .error .invalidWidth := by
  simp [imageChecks, hp, h]

theorem imageChecks_srcRange (hp : threshold black = .ok p) (hH : imageHeight n = .ok H)
    (hsrc : n.pixelRange.valid s.cfg = false) : imageChecks black n s = .error .srcRange := by
  simp [imageChecks, hp, hH, hsrc]

end

/-! ## The output checks of an image command (R206, R207) -/

section
variable {s : State} {n : Snapshot} {acc : BitVec 16} {i : Instr} {p : ImagePlan}

theorem eq_ok_of_toOption {ε α : Type} {x : Except ε α} {a : α} (h : x.toOption = some a) : x = .ok a := by
  cases x with
  | error _ => cases h
  | ok _ => cases h; rfl

/-- A command that plans an output is an image command, and ends with the output checks of that plan. -/
theorem exec_of_planned (he : s.engine = .busy n acc) (h : plannedOutput i n s = some p) :
    exec i s = .next (finishImage n (sourceRange i n) (.ok p) s) := by
  have finish {src : Snapshot → Range} {plan : Snapshot → Except ErrorCode ImagePlan}
      (hplan : (plan n).toOption = some p) : withCommand s (fun m => finishImage m (src m) (plan m) s) =
        .next (finishImage n (src n) (.ok p) s) := by
    rw [withCommand_busy he, eq_ok_of_toOption hplan]
  cases i with
  | crc u => cases h
  | _ => exact finish h

theorem exec_dstRange (he : s.engine = .busy n acc) (h : plannedOutput i n s = some p)
    (hdst : (outputRange i n s).valid s.cfg = false) : exec i s = .next (raiseError .dstRange s) := by
  rw [outputRange_of_planned h] at hdst
  rw [exec_of_planned he h]
  simp [finishImage, hdst]

theorem exec_overlap (he : s.engine = .busy n acc) (h : plannedOutput i n s = some p)
    (hdst : (outputRange i n s).valid s.cfg = true)
    (hover : (sourceRange i n).overlaps (outputRange i n s) = true) : exec i s = .next (raiseError .overlap s) := by
  rw [outputRange_of_planned h] at hdst hover
  rw [exec_of_planned he h]
  simp [finishImage, hdst, hover]

/-- The output range and then its overlap with the source, of a command that plans an output when its source range is
valid. -/
theorem output_checks_fail {src : Range} (he : s.engine = .busy n acc) (hsource : sourceRange i n = src)
    (planned : src.valid s.cfg = true → ∃ p, plannedOutput i n s = some p) :
    (src.valid s.cfg = true → (outputRange i n s).valid s.cfg = false → ∃ t, exec i s = .next t ∧ s.Failed 6 t) ∧
    (src.valid s.cfg = true → (outputRange i n s).valid s.cfg = true → src.overlaps (outputRange i n s) = true →
      ∃ t, exec i s = .next t ∧ s.Failed 7 t) := by
  subst hsource
  refine ⟨fun hsrc hdst => ?_, fun hsrc hdst hover => ?_⟩
  · obtain ⟨p, hp⟩ := planned hsrc
    exact exists_failed_of_raises (exec_dstRange he hp hdst)
  · obtain ⟨p, hp⟩ := planned hsrc
    exact exists_failed_of_raises (exec_overlap he hp hdst hover)
end

/-! ## The checks of each command (R208) -/

section
variable {s : State} {n : Snapshot} {acc : BitVec 16} {i : Instr} {mode : RotMode} {skip : Bool} {black p H : Nat}
  {c : ErrorCode}

/-- `MONO` and `MONOPACK` end with the first of their common source checks that fails. -/
theorem exec_of_check_error (hi : i = .mono skip black ∨ i = .monopack mode skip black) (he : s.engine = .busy n acc)
    (h : imageChecks black n s = .error c) : exec i s = .next (raiseError c s) := by
  rcases hi with rfl | rfl
  · exact execMono_of_check_error he skip h
  · exact execMonopack_of_check_error he mode skip h

theorem sourceRange_of_mono_or_monopack (hi : i = .mono skip black ∨ i = .monopack mode skip black) :
    sourceRange i n = n.pixelRange := by
  rcases hi with rfl | rfl <;> rfl

/-- With the source checks passed, `MONO` and `MONOPACK` plan an output. -/
theorem exists_planned_of_checks (hi : i = .mono skip black ∨ i = .monopack mode skip black)
    (h : imageChecks black n s = .ok (p, H)) : ∃ plan, plannedOutput i n s = some plan := by
  rcases hi with rfl | rfl
  · exact ⟨_, toOption_map_eq_some.mpr ⟨_, h, rfl⟩⟩
  · exact ⟨_, toOption_map_eq_some.mpr ⟨_, h, rfl⟩⟩

theorem eq_ofRot_of_rot (hi : i = .rotNone ∨ i = .rotCw ∨ i = .rotCcw ∨ i = .rot180) : ∃ mode, i = .ofRot mode := by
  rcases hi with rfl | rfl | rfl | rfl
  exacts [⟨.none, rfl⟩, ⟨.cw, rfl⟩, ⟨.ccw, rfl⟩, ⟨.half, rfl⟩]

theorem sourceRange_ofRot (mode : RotMode) (n : Snapshot) : sourceRange (.ofRot mode) n = n.maskRange := by
  cases mode <;> rfl

/-- The source range is the first check of a `ROT` command. -/
theorem exec_ofRot_srcRange (he : s.engine = .busy n acc) (hsrc : n.maskRange.valid s.cfg = false) :
    exec (.ofRot mode) s = .next (raiseError .srcRange s) := by
  rw [exec_ofRot, runRot, withCommand_busy he]
  simp [rotPlan, hsrc, finishImage]

theorem exists_planned_ofRot (hsrc : n.maskRange.valid s.cfg = true) :
    ∃ plan, plannedOutput (.ofRot mode) n s = some plan := by
  have hplan : plannedOutput (.ofRot mode) n s = (rotPlan mode n s).toOption := by cases mode <;> rfl
  rw [hplan, rotPlan, if_pos hsrc]
  exact ⟨_, rfl⟩
end

/-- A unit above 255 raises `INVALID_CHARACTER`, whatever stands before it (R202). -/
theorem crcAccumulate_invalidCharacter {units : List Nat} (h : ∃ c ∈ units, 255 < c) (acc : BitVec 16) :
    crcAccumulate acc units = .error .invalidCharacter := by
  induction units generalizing acc with
  | nil => simp at h
  | cons c cs ih =>
    rw [crcAccumulate]
    split
    · rfl
    · next hc => exact ih (by simpa [hc] using h) _

section
variable {s : State} {n : Snapshot} {acc : BitVec 16} {u : CodeUnit}

theorem exec_crc_srcRange (he : s.engine = .busy n acc) (hsrc : (n.stringRange u).valid s.cfg = false) :
    exec (.crc u) s = .next (raiseError .srcRange s) := by
  rw [exec, execCrc, withCommand_busy he]
  simp [hsrc]

theorem exec_crc_invalidCharacter (he : s.engine = .busy n acc) (hsrc : (n.stringRange u).valid s.cfg = true)
    (hunits : ∃ c ∈ s.codeUnits n u, 255 < c) : exec (.crc u) s = .next (raiseError .invalidCharacter s) := by
  rw [exec, execCrc, withCommand_busy he, if_pos hsrc, crc16, crcAccumulate_invalidCharacter hunits]
end

/-- Settles O34: one lemma for each check that can fail, each with the earlier checks passed. -/
theorem checksFailInTheStatedOrder : Obligations.ChecksFailInTheStatedOrder := by
  intro s n acc he
  refine ⟨fun hr ⟨e, hd⟩ => exists_failed_of_raises (engineMove_of_illegal hr he hd),
    fun i mode skip b hi => ⟨fun hlow _ => ?threshold, fun hb hwidth => ?width, fun hb hW hrows => ?ranges⟩,
    fun i hi => ?rot,
    fun u => ⟨fun hsrc => exists_failed_of_raises (exec_crc_srcRange he hsrc),
      fun hsrc hunits => exists_failed_of_raises (exec_crc_invalidCharacter he hsrc hunits)⟩⟩
  case threshold =>
    have checks := imageChecks_of_threshold_error (threshold_of_gt (by omega : 99 < b)) n s
    exact exists_failed_of_raises (exec_of_check_error hi he checks)
  case width =>
    obtain ⟨p, hp⟩ := exists_threshold hb
    exact exists_failed_of_raises
      (exec_of_check_error hi he (imageChecks_invalidWidth hp (imageHeight_invalidWidth hwidth)))
  case ranges =>
    obtain ⟨p, hp⟩ := exists_threshold hb
    have hW : 0 < n.ops.width.toNat := by omega
    obtain ⟨H, hL⟩ := Nat.dvd_of_mod_eq_zero hrows
    have planned (hsrc : n.pixelRange.valid s.cfg = true) : ∃ plan, plannedOutput i n s = some plan :=
      exists_planned_of_checks hi (imageChecks_ok hp hW hL hsrc)
    refine ⟨fun hsrc => ?_, output_checks_fail he (sourceRange_of_mono_or_monopack hi) planned⟩
    have checks := imageChecks_srcRange hp (imageHeight_of_whole_rows hW hL) hsrc
    exact exists_failed_of_raises (exec_of_check_error hi he checks)
  case rot =>
    obtain ⟨mode, rfl⟩ := eq_ofRot_of_rot hi
    exact ⟨fun hsrc => exists_failed_of_raises (exec_ofRot_srcRange he hsrc),
      output_checks_fail he (sourceRange_ofRot mode n) exists_planned_ofRot⟩

end Sys2Proof.Machine

/-! PROOFS. The family of 70_reset_and_hazards.md: what the reset input does, which host accesses breach the buffer
hazard rule, that a command in flight completes, and that an allowed host access does not change its outcome. -/

namespace Sys2Proof.Machine

/-! ## The bytes a command reads (60_exceptions.md R205)

A command reads memory only inside its source range, so two memories that agree there give it the same plan. -/

/-- Every byte of the range reads the same in both states. -/
def SameBytes (r : Range) (s s' : State) : Prop := ∀ a, r.contains a = true → s'.byteAt a = s.byteAt a

section
variable {s s' : State} {n : Snapshot} {black p H : Nat}

theorem imageHeight_rows (h : imageHeight n = .ok H) : n.ops.srcLen.toNat = 4 * (n.ops.width.toNat * H) := by
  simp only [imageHeight] at h
  split at h
  · cases h
  · rename_i hrows
    cases h
    obtain ⟨-, whole⟩ : n.ops.width.toNat ≠ 0 ∧ n.ops.srcLen.toNat % (4 * n.ops.width.toNat) = 0 := by
      simpa using hrows
    rw [← Nat.mul_assoc, Nat.mul_div_cancel' (Nat.dvd_of_mod_eq_zero whole)]

theorem imageHeight_of_imageChecks (h : imageChecks black n s = .ok (p, H)) : imageHeight n = .ok H := by
  unfold imageChecks at h
  split at h
  · cases h
  · split at h
    · cases h
    · rename_i hheight
      split at h
      · cases h
        exact hheight
      · cases h

/-- The source checks read the parameters and no byte. -/
theorem imageChecks_of_cfg (hcfg : s'.cfg = s.cfg) (black : Nat) (n : Snapshot) :
    imageChecks black n s' = imageChecks black n s := by
  simp [imageChecks, hcfg]

theorem darkAt_samePixels (hheight : imageHeight n = .ok H) (hb : SameBytes n.pixelRange s s') (p : Nat) :
    SamePixels n.ops.width.toNat H (s'.darkAt n p) (s.darkAt n p) := by
  intro x y hx hy
  have inImage := row_major_lt hx hy
  have rows := imageHeight_rows hheight
  have channel (k : Nat) (hk : k < 4) :
      s'.byteAt (n.ops.srcAddr.toNat + 4 * (y * n.ops.width.toNat + x) + k) =
        s.byteAt (n.ops.srcAddr.toNat + 4 * (y * n.ops.width.toNat + x) + k) := by
    refine hb _ ((Range.contains_iff _ _).mpr ?_)
    simp only [Snapshot.pixelRange]
    omega
  have red := channel 0 (by decide)
  rw [Nat.add_zero] at red
  simp only [State.darkAt, State.pixelAt, red, channel 1 (by decide), channel 2 (by decide), channel 3 (by decide)]

theorem maskPixel_samePixels (hb : SameBytes n.maskRange s s') :
    SamePixels n.ops.width.toNat n.ops.height.toNat (s'.maskPixel n) (s.maskPixel n) := by
  intro x y hx hy
  have inMask := row_major_lt hx hy
  rw [State.maskPixel, State.maskPixel, hb _ ((Range.contains_iff _ _).mpr ?_)]
  simp only [Snapshot.maskRange]
  omega

theorem codeUnits_of_sameBytes {u : CodeUnit} (hb : SameBytes (n.stringRange u) s s') :
    s'.codeUnits n u = s.codeUnits n u := by
  refine List.map_congr_left fun j hj => State.memRead_congr fun k hk => hb _ ((Range.contains_iff _ _).mpr ?_)
  have hj := List.mem_range.mp hj
  cases u <;> simp only [Snapshot.stringRange, unitBytes] at hk ⊢ <;> omega
end

/-! ### Plans of the same pixels -/

section
variable {W H : Nat} {m m' : Nat → Nat → Bool}

theorem darkPixels_congr (hm : SamePixels W H m m') : darkPixels W H m = darkPixels W H m' := by
  refine List.filter_congr fun q hq => ?_
  obtain ⟨k, hk, rfl⟩ := List.mem_map.mp hq
  have hk : k < W * H := List.mem_range.mp hk
  exact hm _ _ (Nat.mod_lt _ (Nat.pos_of_mul_pos_right (Nat.zero_lt_of_lt hk))) (Nat.div_lt_of_lt_mul hk)

theorem chooseBox_congr (skip : Bool) (hm : SamePixels W H m m') : chooseBox skip W H m = chooseBox skip W H m' := by
  simp only [chooseBox, cropBox, darkPixels_congr hm]

theorem cropped_congr {box : Box} (hm : SamePixels W H m m') (hx : box.x + box.w ≤ W) (hy : box.y + box.h ≤ H) :
    SamePixels box.w box.h (cropped box m) (cropped box m') := fun c r hc hr =>
  hm _ _ (by omega) (by omega)

theorem maskBytes_congr {w h : Nat} (hm : SamePixels w h m m') : maskBytes w h m = maskBytes w h m' := by
  refine List.map_congr_left fun k hk => ?_
  have hk : k < w * h := List.mem_range.mp hk
  rw [hm _ _ (Nat.mod_lt _ (Nat.pos_of_mul_pos_right (Nat.zero_lt_of_lt hk))) (Nat.div_lt_of_lt_mul hk)]

theorem maskPlan_chooseBox_congr (skip : Bool) (hm : SamePixels W H m m') :
    maskPlan (chooseBox skip W H m) m = maskPlan (chooseBox skip W H m') m' := by
  obtain ⟨hx, hy⟩ := chooseBox_within skip W H m'
  rw [chooseBox_congr skip hm, maskPlan, maskPlan, maskBytes_congr (cropped_congr hm hx hy)]
end

section
variable {s s' : State} {n : Snapshot} (hcfg : s'.cfg = s.cfg)
include hcfg

theorem monoPlan_of_sameBytes (skip : Bool) (black : Nat) (hb : SameBytes n.pixelRange s s') :
    monoPlan skip black n s' = monoPlan skip black n s := by
  rw [monoPlan, monoPlan, imageChecks_of_cfg hcfg]
  cases hchecks : imageChecks black n s with
  | error c => rfl
  | ok checked =>
    have pixels := darkAt_samePixels (imageHeight_of_imageChecks hchecks) hb checked.1
    exact congrArg Except.ok (maskPlan_chooseBox_congr skip pixels)

theorem monopackPlan_of_sameBytes (mode : RotMode) (skip : Bool) (black : Nat) (hb : SameBytes n.pixelRange s s') :
    monopackPlan mode skip black n s' = monopackPlan mode skip black n s := by
  rw [monopackPlan, monopackPlan, imageChecks_of_cfg hcfg]
  cases hchecks : imageChecks black n s with
  | error c => rfl
  | ok checked =>
    have pixels := darkAt_samePixels (imageHeight_of_imageChecks hchecks) hb checked.1
    obtain ⟨hx, hy⟩ := chooseBox_within skip n.ops.width.toNat checked.2 (s.darkAt n checked.1)
    simp only [Except.map, chooseBox_congr skip pixels, rotatePlan_congr mode _ _ (cropped_congr pixels hx hy)]

theorem rotPlan_of_sameBytes (mode : RotMode) (hb : SameBytes n.maskRange s s') :
    rotPlan mode n s' = rotPlan mode n s := by
  rw [rotPlan, rotPlan, hcfg, rotatePlan_congr mode 0 0 (maskPixel_samePixels hb)]
end

/-! ## Two completions of one command -/

/-- `s` and `s'` complete the command `i` with snapshot `n` in the same way: with the same error code, the same plan or
the same checksum. -/
inductive SameCompletion (i : Instr) (n : Snapshot) (s s' : State) : State → State → Prop
  | error (c : ErrorCode) : SameCompletion i n s s' (raiseError c s) (raiseError c s')
  | image (p : ImagePlan) (planned : plannedOutput i n s = some p) :
      SameCompletion i n s s' (imageSuccess n p s) (imageSuccess n p s')
  | crc (sum : BitVec 16) : SameCompletion i n s s' (finishCrc n sum s) (finishCrc n sum s')

section
variable {i : Instr} {s s' : State} {n : Snapshot} {acc acc' : BitVec 16} (hcfg : s'.cfg = s.cfg)
include hcfg

theorem SameCompletion.finishImage {plan : Except ErrorCode ImagePlan} (hplan : plannedOutput i n s = plan.toOption)
    (src : Range) : SameCompletion i n s s' (finishImage n src plan s) (finishImage n src plan s') := by
  unfold Machine.finishImage
  cases plan with
  | error c => exact .error c
  | ok p =>
    simp only [hcfg]
    split
    · split
      · exact .error _
      · exact .image p hplan
    · exact .error _

theorem imageCommand_sameCompletion (he : s.engine = .busy n acc) (he' : s'.engine = .busy n acc')
    {src : Snapshot → Range} {plan : Snapshot → State → Except ErrorCode ImagePlan}
    (hplan : plannedOutput i n s = (plan n s).toOption) (same : plan n s' = plan n s) :
    ∃ t t', withCommand s (fun n => finishImage n (src n) (plan n s) s) = .next t ∧
      withCommand s' (fun n => finishImage n (src n) (plan n s') s') = .next t' ∧ SameCompletion i n s s' t t' :=
  ⟨_, _, withCommand_busy he _, withCommand_busy he' _, same ▸ .finishImage hcfg (same ▸ hplan) (src n)⟩

theorem execCrc_sameCompletion (he : s.engine = .busy n acc) (he' : s'.engine = .busy n acc') {u : CodeUnit}
    (hb : SameBytes (n.stringRange u) s s') :
    ∃ t t', execCrc u s = .next t ∧ execCrc u s' = .next t' ∧ SameCompletion (.crc u) n s s' t t' := by
  refine ⟨_, _, withCommand_busy he _, withCommand_busy he' _, ?_⟩
  rw [hcfg, codeUnits_of_sameBytes hb]
  split
  · split
    · exact .error _
    · exact .crc _
  · exact .error _

/-- A completion reads its snapshot, the parameters and the bytes of its source range, and nothing else of the
state. -/
theorem exec_sameCompletion (he : s.engine = .busy n acc) (he' : s'.engine = .busy n acc')
    (hb : SameBytes (sourceRange i n) s s') :
    ∃ t t', exec i s = .next t ∧ exec i s' = .next t' ∧ SameCompletion i n s s' t t' := by
  cases i with
  | mono skip black => exact imageCommand_sameCompletion hcfg he he' rfl (monoPlan_of_sameBytes hcfg skip black hb)
  | rotNone => exact imageCommand_sameCompletion hcfg he he' rfl (rotPlan_of_sameBytes hcfg .none hb)
  | rotCw => exact imageCommand_sameCompletion hcfg he he' rfl (rotPlan_of_sameBytes hcfg .cw hb)
  | rotCcw => exact imageCommand_sameCompletion hcfg he he' rfl (rotPlan_of_sameBytes hcfg .ccw hb)
  | rot180 => exact imageCommand_sameCompletion hcfg he he' rfl (rotPlan_of_sameBytes hcfg .half hb)
  | monopack mode skip black =>
    exact imageCommand_sameCompletion hcfg he he' rfl (monopackPlan_of_sameBytes hcfg mode skip black hb)
  | crc u => exact execCrc_sameCompletion hcfg he he' hb
end

/-! ## The ranges of the command in flight -/

namespace State
variable {s : State} {i : Instr} {n : Snapshot} {acc : BitVec 16}

theorem inFlight_legal (he : s.engine = .busy n acc) (hd : decode n.cmd = .ok i) : s.inFlight = some (i, n) := by
  simp [inFlight, he, hd, Except.toOption]

/-- An idle engine and an illegal word in flight have no ranges (log 7). -/
theorem inFlight_none
    (h : s.engine = .idle ∨ ∃ (n : Snapshot) (acc : BitVec 16) (e : Illegal),
      s.engine = .busy n acc ∧ decode n.cmd = .error e) : s.inFlight = none := by
  rcases h with he | ⟨n, acc, e, he, hd⟩
  · simp [inFlight, he]
  · simp [inFlight, he, hd, Except.toOption]

theorem inSource_legal (h : s.inFlight = some (i, n)) (a : Nat) : s.inSource a = (sourceRange i n).contains a := by
  simp [inSource, h]

theorem inOutput_legal (h : s.inFlight = some (i, n)) (a : Nat) : s.inOutput a = (outputRange i n s).contains a := by
  simp [inOutput, h]

theorem inSource_none (h : s.inFlight = none) (a : Nat) : s.inSource a = false := by
  simp [inSource, h]

theorem inOutput_none (h : s.inFlight = none) (a : Nat) : s.inOutput a = false := by
  simp [inOutput, h]

variable {a size : Nat}

theorem readHazard_eq_false_iff : s.readHazard a size = false ↔ ∀ k, k < size → s.inOutput (a + k) = false := by
  simp [readHazard]

theorem writeHazard_eq_false_iff : s.writeHazard a size = false ↔
    ∀ k, k < size → s.inSource (a + k) = false ∧ s.inOutput (a + k) = false := by
  simp [writeHazard]

theorem readHazard_iff : s.readHazard a size = true ↔ ∃ k, k < size ∧ s.inOutput (a + k) = true := by
  simp [readHazard]

theorem writeHazard_iff : s.writeHazard a size = true ↔
    ∃ k, k < size ∧ (s.inSource (a + k) = true ∨ s.inOutput (a + k) = true) := by
  simp [writeHazard]

/-! The host's list of moves is no part of what a command computes. -/

@[simp] theorem readHazard_setInputs (s : State) (ins : List Input) (a size : Nat) :
    (s.setInputs ins).readHazard a size = s.readHazard a size := rfl

@[simp] theorem writeHazard_setInputs (s : State) (ins : List Input) (a size : Nat) :
    (s.setInputs ins).writeHazard a size = s.writeHazard a size := rfl

end State

/-! ## What a host access leaves of the command in flight -/

/-- `s'` has what the outcome of the command in flight at `s` rests on: the parameters, the engine, the flags and result
registers that a completion may keep, and the bytes of both its ranges. -/
structure State.KeepsCommand (i : Instr) (n : Snapshot) (s s' : State) : Prop where
  cfg : s'.cfg = s.cfg
  engine : s'.engine = s.engine
  done : s'.status.done = s.status.done
  err : s'.status.err = s.status.err
  errcode : s'.status.errcode = s.status.errcode
  image : s'.image = s.image
  crc : s'.crc = s.crc
  source : SameBytes (sourceRange i n) s s'
  output : SameBytes (outputRange i n s) s s'

namespace State.KeepsCommand
variable {i : Instr} {n : Snapshot} {s s' : State}

theorem refl (i : Instr) (n : Snapshot) (s : State) : s.KeepsCommand i n s :=
  ⟨rfl, rfl, rfl, rfl, rfl, rfl, rfl, fun _ _ => rfl, fun _ _ => rfl⟩

/-- The answer on the port is no part of it. -/
theorem setResponse (h : s.KeepsCommand i n s') (resp : Response) : s.KeepsCommand i n (s'.setResponse resp) :=
  ⟨h.cfg, h.engine, h.done, h.err, h.errcode, h.image, h.crc, h.source, h.output⟩

/-- While busy a `STATUS` write finds `DONE` and `ERR` clear, and a `CMD` write is dropped (10_state.md R29, R46). -/
theorem writeReg (flags : s.FlagsOk) (hb : s.busy = true) (r : Reg) (v : Word) :
    s.KeepsCommand i n (writeReg r v s) := by
  cases r with
  | status =>
    obtain ⟨hd, he⟩ := flags.clearWhileBusy hb
    have done : (Machine.writeStatus v s).status.done = s.status.done := by simp [writeStatus, hd]
    have err : (Machine.writeStatus v s).status.err = s.status.err := by simp [writeStatus, he]
    exact ⟨rfl, rfl, done, err, rfl, rfl, rfl, fun _ _ => rfl, fun _ _ => rfl⟩
  | cmd =>
    rw [Machine.writeReg, writeCommand_busy v hb]
    exact ⟨rfl, rfl, rfl, rfl, rfl, rfl, rfl, fun _ _ => rfl, fun _ _ => rfl⟩
  | _ => exact ⟨rfl, rfl, rfl, rfl, rfl, rfl, rfl, fun _ _ => rfl, fun _ _ => rfl⟩

theorem writeOffset (flags : s.FlagsOk) (hb : s.busy = true) (off : Nat) (v : Word) :
    s.KeepsCommand i n (writeOffset off v s) := by
  rcases writeOffset_cases off v s with h | ⟨r, -, h⟩ <;> rw [h]
  · exact .refl i n s
  · exact .writeReg flags hb r v

/-- A store that breaches no hazard touches neither range. -/
theorem memWrite (hf : s.inFlight = some (i, n)) {a size : Nat} (allowed : s.writeHazard a size = false) (v : Nat) :
    s.KeepsCommand i n (s.memWrite a size v) := by
  have apart (c : Nat) (hc : (sourceRange i n).contains c = true ∨ (outputRange i n s).contains c = true) :
      (s.memWrite a size v).byteAt c = s.byteAt c := by
    refine s.memWrite_sameOutside a size v c fun ⟨low, high⟩ => ?_
    obtain ⟨k, rfl⟩ := Nat.exists_eq_add_of_le low
    obtain ⟨noSource, noOutput⟩ := writeHazard_eq_false_iff.mp allowed k (by omega)
    rw [inSource_legal hf] at noSource
    rw [inOutput_legal hf] at noOutput
    simp [noSource, noOutput] at hc
  exact ⟨rfl, rfl, rfl, rfl, rfl, rfl, rfl, fun c hc => apart c (.inl hc), fun c hc => apart c (.inr hc)⟩

variable {addr : Nat} {size : Size}

theorem hostRead (h : hostRead addr size s = .next s') : s.KeepsCommand i n s' := by
  unfold Machine.hostRead at h
  repeat' split at h
  all_goals cases h
  all_goals exact (refl i n s).setResponse _

theorem hostWrite {v : Word} (flags : s.FlagsOk) (hb : s.busy = true) (hf : s.inFlight = some (i, n))
    (h : hostWrite addr size v s = .next s') : s.KeepsCommand i n s' := by
  unfold Machine.hostWrite at h
  split at h
  · cases h
  · split at h
    · split at h
      · cases h
        exact (writeOffset flags hb _ v).setResponse _
      · cases h
        exact (refl i n s).setResponse _
    · split at h
      · split at h
        · cases h
        · rename_i allowed
          cases h
          exact (memWrite hf (by simpa using allowed) v.toNat).setResponse _
      · cases h
        exact (refl i n s).setResponse _
    · cases h
      exact (refl i n s).setResponse _

/-- Two completions alike, from states that agree on the rest of the outcome, show the same outcome (R251). -/
theorem outcome {t t' : State} (kept : s.KeepsCommand i n s') (h : SameCompletion i n s s' t t') :
    t'.status.done = t.status.done ∧ t'.status.err = t.status.err ∧ t'.status.errcode = t.status.errcode ∧
      t'.image = t.image ∧ t'.crc = t.crc ∧ SameBytes (outputRange i n s) t t' := by
  cases h with
  | error c => exact ⟨kept.done, rfl, rfl, kept.image, kept.crc, kept.output⟩
  | image p planned =>
    refine ⟨rfl, kept.err, rfl, rfl, kept.crc, fun a ha => ?_⟩
    rw [outputRange_of_planned planned, Range.contains_iff, ← plannedOutput_length planned] at ha
    obtain ⟨low, high⟩ := ha
    obtain ⟨k, rfl⟩ := Nat.exists_eq_add_of_le low
    have hk : k < p.bytes.length := by simpa using high
    exact (imageSuccess_byteAt_inside n p s' hk).trans (imageSuccess_byteAt_inside n p s hk).symm
  | crc sum => exact ⟨rfl, kept.err, rfl, kept.image, rfl, kept.output⟩

end State.KeepsCommand

/-- Settles O50: an allowed access keeps what the outcome rests on, so both completions are alike. -/
theorem allowedHostAccessDoesNotChangeTheOutcome : Obligations.AllowedHostAccessDoesNotChangeTheOutcome := by
  intro s s' n acc i addr size v flags he hd haccess
  have hb : s.busy = true := s.busy_iff.mpr ⟨n, acc, he⟩
  have kept : s.KeepsCommand i n s' := by
    rcases haccess with hread | hwrite
    · exact .hostRead hread
    · exact .hostWrite flags hb (State.inFlight_legal he hd) hwrite
  obtain ⟨t, t', ht, ht', same⟩ := exec_sameCompletion kept.cfg he (kept.engine.trans he) kept.source
  exact ⟨t, t', ht, ht', kept.outcome same⟩

/-! ## The buffer hazard (R246) -/

section
variable {s : State} {addr a : Nat} {size : Size} {v : Word} {rest : List Input}
  (hr : s.inReset = false) (ht : target s.cfg addr = .buffer a) (hok : windowAccessOk s.cfg a size = true)
include hr ht hok

/-- A read in the window stops on a breach and otherwise answers the bytes. -/
theorem hostRead_window :
    hostRead addr size s = if s.readHazard a size.bytes then .fault .bufferHazard
      else .next (s.setResponse (.data (BitVec.ofNat 32 (s.memRead a size.bytes)))) := by
  simp [hostRead, hr, ht, hok]

/-- A write in the window stops on a breach and otherwise stores its bytes. -/
theorem hostWrite_window (v : Word) :
    hostWrite addr size v s = if s.writeHazard a size.bytes then .fault .bufferHazard
      else .next ((s.memWrite a size.bytes v.toNat).setResponse .ack) := by
  simp [hostWrite, hr, ht, hok]

theorem step_read_window_breach (hazard : s.readHazard a size.bytes = true)
    (hi : s.inputs = .read addr size :: rest) : step s = .fault .bufferHazard :=
  (nextMove_cons hi).trans ((hostRead_window (s := s.setInputs rest) hr ht hok).trans (if_pos hazard))

theorem step_write_window_breach (hazard : s.writeHazard a size.bytes = true)
    (hi : s.inputs = .write addr size v :: rest) : step s = .fault .bufferHazard :=
  (nextMove_cons hi).trans ((hostWrite_window (s := s.setInputs rest) hr ht hok v).trans (if_pos hazard))

theorem step_read_window_allowed (allowed : s.readHazard a size.bytes = false)
    (hi : s.inputs = .read addr size :: rest) :
    step s = .next ((s.setInputs rest).setResponse (.data (BitVec.ofNat 32 (s.memRead a size.bytes)))) := by
  rw [step, nextMove_cons hi, inputMove, hostRead_window (s := s.setInputs rest) hr ht hok,
    State.readHazard_setInputs, if_neg (by simp [allowed]), State.memRead_setInputs]

/-- An allowed write stores its bytes little-endian and no other (20_memory.md R62, R63). -/
theorem step_write_window_allowed (allowed : s.writeHazard a size.bytes = false)
    (hi : s.inputs = .write addr size v :: rest) :
    ∃ t, step s = .next t ∧ t = ((s.setMem t.mem).setInputs rest).setResponse .ack ∧
      (∀ k, k < size.bytes → t.byteAt (a + k) = v.extractLsb' (8 * k) 8) ∧ s.SameOutside t a size.bytes := by
  rw [step, nextMove_cons hi, inputMove, hostWrite_window (s := s.setInputs rest) hr ht hok,
    State.writeHazard_setInputs, if_neg (by simp [allowed])]
  refine ⟨_, rfl, rfl, fun k hk => ?_, State.memWrite_sameOutside (s.setInputs rest) a _ _⟩
  rw [← ofNat_div_eq_extractLsb']
  exact State.memWrite_byteAt_inside (s.setInputs rest) a _ hk
end

/-- Settles O24: the ranges of the legal command decide which accesses breach; without one there is no breach. -/
theorem bufferHazardIsAFaultAndOtherAccessesAreNot : Obligations.BufferHazardIsAFaultAndOtherAccessesAreNot := by
  intro s addr a size v rest hr ht ha hin
  have hok : windowAccessOk s.cfg a size = true := windowAccessOk_iff.mpr ⟨ha, hin⟩
  refine ⟨fun n acc i he hd => ?legal, fun hnone => ?none⟩
  case legal =>
    have hf := State.inFlight_legal he hd
    simp only [← State.inSource_legal hf, ← State.inOutput_legal hf, ← State.writeHazard_iff, ← State.readHazard_iff,
      ← State.readHazard_eq_false_iff, ← State.writeHazard_eq_false_iff]
    exact ⟨fun hi hazard => step_write_window_breach hr ht hok hazard hi,
      fun hi hazard => step_read_window_breach hr ht hok hazard hi,
      fun hi allowed => step_read_window_allowed hr ht hok allowed hi,
      fun hi allowed => step_write_window_allowed hr ht hok allowed hi⟩
  case none =>
    have hf := State.inFlight_none hnone
    have noSource := State.inSource_none hf
    have noOutput := State.inOutput_none hf
    exact ⟨step_read_window_allowed hr ht hok (State.readHazard_eq_false_iff.mpr fun k _ => noOutput _),
      step_write_window_allowed hr ht hok
        (State.writeHazard_eq_false_iff.mpr fun k _ => ⟨noSource _, noOutput _⟩)⟩

/-! ## Results along a step (R247) -/

theorem writeReg_errcode (r : Reg) (v : Word) (s : State) : (writeReg r v s).status.errcode = s.status.errcode := by
  cases r with
  | cmd => rcases writeCommand_cases v s with ⟨-, h⟩ | ⟨-, h⟩ <;> rw [writeReg, h] <;> rfl
  | _ => rfl

theorem writeOffset_keeps_results (off : Nat) (v : Word) (s : State) :
    (writeOffset off v s).image = s.image ∧ (writeOffset off v s).crc = s.crc ∧
      (writeOffset off v s).status.errcode = s.status.errcode := by
  rcases writeOffset_cases off v s with h | ⟨r, -, h⟩ <;> rw [h]
  · exact ⟨rfl, rfl, rfl⟩
  · obtain ⟨-, -, himage, hcrc, -⟩ := writeReg_frame r v s
    exact ⟨himage, hcrc, writeReg_errcode r v s⟩

namespace Completion
variable {n : Snapshot} {s t : State} (h : Completion n s t)
include h

theorem busy : t.busy = false := by
  cases h <;> rfl

/-- Success goes with code 0 and an error with a nonzero one (10_state.md R30). -/
theorem success_or_error :
    (t.status.done = true ∧ t.status.errcode = 0) ∨ (t.status.err = true ∧ t.status.errcode ≠ 0) := by
  cases h with
  | error c => exact .inr ⟨rfl, c.code_range.1⟩
  | image i p planned valid => exact .inl ⟨rfl, rfl⟩
  | crc sum => exact .inl ⟨rfl, rfl⟩

end Completion

/-- A step keeps the results and `ERRCODE`, completes the command in flight, or is reset. -/
theorem step_results {s t : State} (hs : step s = .next t) :
    (t.image = s.image ∧ t.crc = s.crc ∧ t.status.errcode = s.status.errcode) ∨
    (t.busy = false ∧ (s.busy = true ∨ ∃ rest, s.inputs = .resetAssert :: rest)) := by
  cases step_outcome hs with
  | quiet ins resp => exact .inl ⟨rfl, rfl, rfl⟩
  | @register addr off v rest inputs reaches released =>
    exact .inl (writeOffset_keeps_results off v (s.setInputs rest))
  | window inputs reaches inside released => exact .inl ⟨rfl, rfl, rfl⟩
  | completion ins resp released inFlight completes =>
    exact .inr ⟨completes.busy, .inl (s.busy_iff.mpr ⟨_, _, inFlight⟩)⟩
  | @resetAssert rest inputs => exact .inr ⟨rfl, .inr ⟨rest, inputs⟩⟩
  | resetRelease inputs => exact .inl ⟨rfl, rfl, rfl⟩

/-- Settles O21: a completion and reset leave the engine idle, and every other step keeps the results. -/
theorem resultsAreStaleWhileBusy : Obligations.ResultsAreStaleWhileBusy := by
  refine ⟨fun s t hs _ hb => ?_, fun s t hs changed => ?_⟩
  · rcases step_results hs with kept | ⟨idle, -⟩
    · exact kept
    · simp [hb] at idle
  · rcases step_results hs with ⟨himage, hcrc, hcode⟩ | ⟨idle, busy | reset⟩
    · simp [himage, hcrc, hcode] at changed
    · exact .inl ⟨busy, idle⟩
    · exact .inr reset

/-! ## The command in flight completes (R250) -/

/-- With a command in flight and reset released, the engine's move is its completion. -/
theorem engineMove_busy {s : State} {n : Snapshot} {acc : BitVec 16} (hr : s.inReset = false)
    (he : s.engine = .busy n acc) : ∃ t, engineMove s = .next t ∧ Completion n s t := by
  cases hd : decode n.cmd with
  | error e => exact ⟨_, engineMove_of_illegal hr he hd, .error _⟩
  | ok i =>
    obtain ⟨t, ht⟩ := exec_busy he i
    obtain ⟨m, acc', hm, completes⟩ := exec_completion ht
    obtain ⟨rfl, -⟩ : n = m ∧ acc = acc' := by simpa [he] using hm
    exact ⟨t, (engineMove_of_decode hr he hd).trans ht, completes⟩

/-- Settles O29: in both cases the step is the engine's move. -/
theorem commandInFlightCompletes : Obligations.CommandInFlightCompletes := by
  intro s hr hb hi
  obtain ⟨n, acc, he⟩ := s.busy_iff.mp hb
  have move : ∃ u : State, step s = engineMove u ∧ u.inReset = false ∧ u.engine = .busy n acc := by
    rcases hi with hi | ⟨rest, hi⟩
    · exact ⟨s, nextMove_nil hi, hr, he⟩
    · exact ⟨s.setInputs rest, step_of_engine_input hi, hr, he⟩
  obtain ⟨u, hstep, hru, heu⟩ := move
  obtain ⟨t, ht, completes⟩ := engineMove_busy hru heu
  exact ⟨t, hstep.trans ht, completes.busy, completes.success_or_error⟩

/-! ## The reset input (R240 to R242) -/

/-- Abandoning a command changes no byte outside its output range (R241). -/
theorem abandonCommand_byteAt {s : State} {a : Nat} (h : s.inOutput a = false) :
    (abandonCommand s).byteAt a = s.byteAt a := by
  unfold abandonCommand
  split
  · rfl
  · rename_i i n hf
    refine s.storeBytes_byteAt_outside _ _ fun ⟨low, high⟩ => ?_
    have inside : (outputRange i n s).contains a = true := by
      simp only [List.length_map, List.length_range, Range.clip] at low high
      rw [Range.contains_iff]
      omega
    simp [State.inOutput_legal hf, inside] at h

/-- Abandoning a command leaves the parameters, the power-up and the host's moves alone. -/
theorem abandonCommand_frame (s : State) :
    (abandonCommand s).cfg = s.cfg ∧ (abandonCommand s).powerUp = s.powerUp ∧
      (abandonCommand s).inputs = s.inputs := by
  unfold abandonCommand
  split <;> exact ⟨rfl, rfl, rfl⟩

/-- Settles O23: reset writes every register, and abandoning the command in flight is all that touches memory. -/
theorem resetRestoresRegistersAndKeepsOtherMemory : Obligations.ResetRestoresRegistersAndKeepsOtherMemory := by
  intro s rest hi
  obtain ⟨hcfg, hpower, hinputs⟩ := abandonCommand_frame (s.setInputs rest)
  exact ⟨assertReset (s.setInputs rest), nextMove_cons hi, fun r => readReg_assertReset r _, rfl, rfl, hcfg, hpower,
    hinputs, fun a ha => abandonCommand_byteAt (s := s.setInputs rest) ha,
    fun he => assertReset_mem_idle (s := s.setInputs rest) he⟩

theorem engineMove_inReset {s : State} (h : s.inReset = true) : engineMove s = .next s := if_pos h

theorem hostRead_inReset {s : State} (h : s.inReset = true) (addr : Nat) (size : Size) :
    hostRead addr size s = .fault .accessInReset := if_pos h

theorem hostWrite_inReset {s : State} (h : s.inReset = true) (addr : Nat) (size : Size) (v : Word) :
    hostWrite addr size v s = .fault .accessInReset := if_pos h

/-- Settles O25: each of these moves asks for the reset input first. -/
theorem assertedResetHoldsTheBlock : Obligations.AssertedResetHoldsTheBlock := by
  intro s rest hr
  have hrest : (s.setInputs rest).inReset = true := hr
  refine ⟨fun hi => (nextMove_nil hi).trans (engineMove_inReset hr),
    fun hi => (step_of_engine_input hi).trans (engineMove_inReset hrest), fun hi => nextMove_cons hi,
    fun addr size v haccess => ?_⟩
  rcases haccess with hi | hi
  · exact (nextMove_cons hi).trans (hostRead_inReset hrest addr size)
  · exact (nextMove_cons hi).trans (hostWrite_inReset hrest addr size v)

end Sys2Proof.Machine

namespace Sys2Proof.Machine

/-! ## How a step may end -/

theorem goesOnOrHostBreach_of_next {o : Host.Outcome State Fault Refusal} {t : State} (h : o = .next t) :
    goesOnOrHostBreach o :=
  h ▸ trivial

theorem goesOnOrHostBreach_ite {c : Prop} [Decidable c] {o p : Host.Outcome State Fault Refusal}
    (ho : goesOnOrHostBreach o) (hp : goesOnOrHostBreach p) : goesOnOrHostBreach (if c then o else p) := by
  split
  · exact ho
  · exact hp

/-- The engine's move never stops: it asks for a command's meaning only with that command in flight (R45, R47). -/
theorem engineMove_goesOn (s : State) : ∃ t, engineMove s = .next t := by
  rcases engineMove_cases s with ⟨hm, -⟩ | ⟨n, acc, -, he, ⟨e, -, hm⟩ | ⟨i, -, hm⟩⟩
  · exact ⟨s, hm⟩
  · exact ⟨_, hm⟩
  · obtain ⟨t, ht⟩ := exec_busy he i
    exact ⟨t, hm.trans ht⟩

/-- A host read stops only for reset (log 5) and for a buffer hazard (R246). -/
theorem hostRead_goesOnOrHostBreach (addr : Nat) (size : Size) (s : State) :
    goesOnOrHostBreach (hostRead addr size s) := by
  refine goesOnOrHostBreach_ite trivial ?released
  cases target s.cfg addr with
  | register off => exact goesOnOrHostBreach_ite trivial trivial
  | buffer a => exact goesOnOrHostBreach_ite (goesOnOrHostBreach_ite trivial trivial) trivial
  | nowhere => trivial

/-- A host write stops only for reset (log 5) and for a buffer hazard (R246). -/
theorem hostWrite_goesOnOrHostBreach (addr : Nat) (size : Size) (v : Word) (s : State) :
    goesOnOrHostBreach (hostWrite addr size v s) := by
  refine goesOnOrHostBreach_ite trivial ?released
  cases target s.cfg addr with
  | register off => exact goesOnOrHostBreach_ite trivial trivial
  | buffer a => exact goesOnOrHostBreach_ite (goesOnOrHostBreach_ite trivial trivial) trivial
  | nowhere => trivial

/-- A poll stops only for reset (log 5): it reads, or lets the engine move. -/
theorem pollMove_goesOnOrHostBreach (r : Reg) (mask value : Word) (s : State) :
    goesOnOrHostBreach (pollMove r mask value s) := by
  obtain ⟨t, ht⟩ := engineMove_goesOn
    ((s.setResponse (.data (readReg r s))).setInputs (.poll r mask value :: s.inputs))
  exact goesOnOrHostBreach_ite trivial (goesOnOrHostBreach_ite trivial (goesOnOrHostBreach_of_next ht))

theorem inputMove_goesOnOrHostBreach (input : Input) (s : State) : goesOnOrHostBreach (inputMove input s) := by
  cases input with
  | read addr size => exact hostRead_goesOnOrHostBreach addr size s
  | write addr size v => exact hostWrite_goesOnOrHostBreach addr size v s
  | poll r mask value => exact pollMove_goesOnOrHostBreach r mask value s
  | engine =>
    obtain ⟨t, ht⟩ := engineMove_goesOn s
    exact goesOnOrHostBreach_of_next ht
  | resetAssert => trivial
  | resetRelease => trivial

/-- Settles O30: the engine always goes on, and each move of the outside world stops only for a rule the host broke. -/
theorem stepsStopOnlyForHostBreaches : Obligations.StepsStopOnlyForHostBreaches := by
  intro s
  cases hi : s.inputs with
  | nil =>
    obtain ⟨t, ht⟩ := engineMove_goesOn s
    exact goesOnOrHostBreach_of_next ((nextMove_nil hi).trans ht)
  | cons input rest =>
    rw [step, nextMove_cons hi]
    exact inputMove_goesOnOrHostBreach input (s.setInputs rest)

end Sys2Proof.Machine
